-- ==== Sys2Proof/Word.lean ====
section
/-! DEFINITION. The word types of the engine (spec/00_scope.md R6, R8; spec/20_memory.md R61). -/

namespace Sys2Proof

/-- One limb, one bus transfer, one CSR, one command word: 32 bits (R6 "WORD"). -/
abbrev Word := BitVec 32

/-- One cell of the operand RAM. The bus never moves less than a word (20_memory.md R67). -/
abbrev Byte := BitVec 8

/-- A byte offset inside the engine's 128 KiB window (20_memory.md R61). -/
abbrev Offset := BitVec 17

/-- A register field of a command word: an unsigned 4-bit index (30_encoding.md R91, R92). -/
abbrev RegField := BitVec 4

end Sys2Proof
end

