-- ==== Sys2Proof/Machine/Arith.lean ====
section
/-! DEFINITION. The integer arithmetic the commands share: bit length, modular power, the word inverse
(spec/00_scope.md R9, R10; spec/41_modexp.md R121, R130). Everything is exact; nothing wraps but the inverse mod
2^32. -/

namespace Sys2Proof.Machine

/-- "the least L ≥ 0 with v < 2^L" (00_scope.md R9). -/
def bitlen (v : Nat) : Nat := if v = 0 then 0 else v.log2 + 1

/-- `ceil(a / 32)`: how many words hold `a` bits. -/
def wordsOf (bits : Nat) : Nat := (bits + 31) / 32

/-- `base ^ e mod m` by squaring, for `e < 2 ^ fuel`. -/
def powModFuel (m : Nat) : Nat → Nat → Nat → Nat
  | 0, _, _ => 1 % m
  | fuel + 1, base, e =>
    if e % 2 = 1 then base * powModFuel m fuel (base * base % m) (e / 2) % m
    else powModFuel m fuel (base * base % m) (e / 2)

/-- `base ^ e mod m` (stated equal to it; log entry 17). -/
def powMod (base e m : Nat) : Nat := powModFuel m (bitlen e) (base % m) e

/-- One Newton step for the inverse of `a` modulo 2^32: it doubles the number of right low bits. -/
def invStep (a b : Word) : Word := b * (2 - a * b)

/-- `inv32(a)` for odd `a`: "the unique b in [0, 2^32) with a·b ≡ 1 (mod 2^32)" (00_scope.md R9; log entry 17). -/
def inv32 (a : Word) : Word := invStep a (invStep a (invStep a (invStep a a)))

/-- "(2^32 − inv32(m mod 2^32)) mod 2^32", which is −m⁻¹ mod 2^32 (41_modexp.md R121). -/
def montgomeryConstant (m : Nat) : Word := -inv32 (BitVec.ofNat 32 m)

end Sys2Proof.Machine
end

