-- ==== Sys2Proof/Syntax.lean ====
section
/-! DEFINITION. The twelve commands of spec/30_encoding.md R95 (spec/opcode_table.json), one constructor each.
Operand order is the assembler's (R99): destination, sources in RA, RB order, modulus, flag. -/

namespace Sys2Proof

/-- A command. A register argument is the 4-bit field of the command word that names the big register. -/
inductive Instr where
  /-- `NOP` (40_general.md R110). -/
  | nop
  /-- `CLR Bd` (40_general.md R111). -/
  | clr (d : RegField)
  /-- `MODRED Bd, Ba, Bc` (41_modexp.md R122). -/
  | modred (d a c : RegField)
  /-- `MCONST Bc` (41_modexp.md R121). -/
  | mconst (c : RegField)
  /-- `MODSQR Bd, Ba, Bc` (41_modexp.md R128). -/
  | modsqr (d a c : RegField)
  /-- `SQRLOOP Bd, Ba, Bc [, STRICT]` (44_squaring.md R183). -/
  | sqrloop (d a c : RegField) (strict : Bool)
  /-- `MODPOW Bd, Ba, Bb, Bc` (41_modexp.md R129). -/
  | modpow (d a b c : RegField)
  /-- `TRIALDIV Ba` (42_primality.md R151). -/
  | trialdiv (a : RegField)
  /-- `MRROUND Ba, Bb` (42_primality.md R153). -/
  | mrround (a b : RegField)
  /-- `MRTEST Ba [, RANDOM]` (42_primality.md R156). -/
  | mrtest (a : RegField) (random : Bool)
  /-- `RANDCAND Bd [, BLUM]` (43_random.md R171). -/
  | randcand (d : RegField) (blum : Bool)
  /-- `WFCHK` (44_squaring.md R182). -/
  | wfchk
  deriving DecidableEq, Repr

end Sys2Proof
end

