-- ==== Sys2Proof/WellFormed.lean ====
section
/-! DEFINITION. Which commands the encoding admits (spec/30_encoding.md R92): a register field a command uses must
hold 0..7. -/

namespace Sys2Proof

/-- "A field a command uses must hold 0..7 (bit 3 = 0)" (R92). -/
def RegField.isBigReg (f : RegField) : Bool := f < 8#4

/-- Every register field the command uses names one of B0..B7 (R92). -/
def Instr.wellFormed : Instr → Bool
  | .nop => true
  | .clr d => RegField.isBigReg d
  | .modred d a c => RegField.isBigReg d && RegField.isBigReg a && RegField.isBigReg c
  | .mconst c => RegField.isBigReg c
  | .modsqr d a c => RegField.isBigReg d && RegField.isBigReg a && RegField.isBigReg c
  | .sqrloop d a c _ => RegField.isBigReg d && RegField.isBigReg a && RegField.isBigReg c
  | .modpow d a b c =>
    RegField.isBigReg d && RegField.isBigReg a && RegField.isBigReg b && RegField.isBigReg c
  | .trialdiv a => RegField.isBigReg a
  | .mrround a b => RegField.isBigReg a && RegField.isBigReg b
  | .mrtest a _ => RegField.isBigReg a
  | .randcand d _ => RegField.isBigReg d
  | .wfchk => true

end Sys2Proof
end

