-- ==== Sys2Proof/Decode.lean ====
section
/-! DEFINITION. Command decoding and encoding (spec/30_encoding.md R90-R99). Decoding is total: every word is one of
the twelve commands or is rejected with one of two names (R98). -/

namespace Sys2Proof

/-- Why a command word does not decode (R96, R97). -/
inductive DecodeError where
  /-- OPC above 0x0B. -/
  | illegalOpcode
  /-- A used register field above 7, a nonzero unused field, or a reserved FLAGS bit. -/
  | illegalEncoding
  deriving DecidableEq, Repr

/-! ### Fields of the command word (R91) -/

def opcField (w : Word) : BitVec 8 := w.extractLsb' 24 8
def rdField (w : Word) : RegField := w.extractLsb' 20 4
def raField (w : Word) : RegField := w.extractLsb' 16 4
def rbField (w : Word) : RegField := w.extractLsb' 12 4
def rcField (w : Word) : RegField := w.extractLsb' 8 4
def flagsField (w : Word) : BitVec 8 := w.extractLsb' 0 8

/-- "The command word is `OPC<<24 | RD<<20 | RA<<16 | RB<<12 | RC<<8 | FLAGS`" (R95). -/
def packFields (opc : BitVec 8) (rd ra rb rc : RegField) (flags : BitVec 8) : Word :=
  opc ++ rd ++ ra ++ rb ++ rc ++ flags

/-! ### Which fields a command uses (R92, R93) -/

/-- The row of R92's table for one command: which register fields it uses, and which FLAGS bits are defined. -/
structure FieldUse where
  rd : Bool
  ra : Bool
  rb : Bool
  rc : Bool
  flags : BitVec 8
  deriving DecidableEq, Repr

def Instr.fieldUse : Instr → FieldUse
  | .nop => ⟨false, false, false, false, 0x00#8⟩
  | .clr .. => ⟨true, false, false, false, 0x00#8⟩
  | .modred .. => ⟨true, true, false, true, 0x00#8⟩
  | .mconst .. => ⟨false, false, false, true, 0x00#8⟩
  | .modsqr .. => ⟨true, true, false, true, 0x00#8⟩
  | .sqrloop .. => ⟨true, true, false, true, 0x01#8⟩
  | .modpow .. => ⟨true, true, true, true, 0x00#8⟩
  | .trialdiv .. => ⟨false, true, false, false, 0x00#8⟩
  | .mrround .. => ⟨false, true, true, false, 0x00#8⟩
  | .mrtest .. => ⟨false, true, false, false, 0x01#8⟩
  | .randcand .. => ⟨true, false, false, false, 0x01#8⟩
  | .wfchk => ⟨false, false, false, false, 0x00#8⟩

/-- R96's check of one register field: 0..7 if used, 0 if not. -/
def fieldOk (used : Bool) (f : RegField) : Bool := if used then RegField.isBigReg f else f == 0#4

/-- R96's checks after the opcode check, for the command the opcode selects. -/
def fieldsOk (u : FieldUse) (w : Word) : Bool :=
  fieldOk u.rd (rdField w) && fieldOk u.ra (raField w) && fieldOk u.rb (rbField w) &&
    fieldOk u.rc (rcField w) && (flagsField w &&& ~~~u.flags) == 0#8

/-- FLAGS bit 0 (R93). -/
def flagBit (w : Word) : Bool := (flagsField w).getLsbD 0

/-- The command an opcode selects, its operands read from the word; none for a reserved opcode (R95, R97). -/
def selectOpcode (w : Word) : Option Instr :=
  match (opcField w).toNat with
  | 0x00 => some .nop
  | 0x01 => some (.clr (rdField w))
  | 0x02 => some (.modred (rdField w) (raField w) (rcField w))
  | 0x03 => some (.mconst (rcField w))
  | 0x04 => some (.modsqr (rdField w) (raField w) (rcField w))
  | 0x05 => some (.sqrloop (rdField w) (raField w) (rcField w) (flagBit w))
  | 0x06 => some (.modpow (rdField w) (raField w) (rbField w) (rcField w))
  | 0x07 => some (.trialdiv (raField w))
  | 0x08 => some (.mrround (raField w) (rbField w))
  | 0x09 => some (.mrtest (raField w) (flagBit w))
  | 0x0A => some (.randcand (rdField w) (flagBit w))
  | 0x0B => some .wfchk
  | _ => none

/-- R96, in its order: the opcode first, then the register fields and the flags. -/
def decode (w : Word) : Except DecodeError Instr :=
  match selectOpcode w with
  | none => .error .illegalOpcode
  | some i => if fieldsOk i.fieldUse w then .ok i else .error .illegalEncoding

/-- The instruction of an opcode-table row's word, its bits above `nbits` zero. A command is one 32-bit word
(R90), so the table's bit numbering is the word's. -/
def decodeTableWord (nbits w : Nat) : Option Instr :=
  match decode (BitVec.ofNat 32 (w % 2 ^ nbits)) with
  | .ok i => some i
  | .error _ => none

/-! ### Encoding (R95, R99) -/

/-- FLAGS with bit 0 as given. -/
def flagsOf (b : Bool) : BitVec 8 := if b then 0x01#8 else 0x00#8

/-- The command word of a command, from R99's table. -/
def encode : Instr → Word
  | .nop => packFields 0x00#8 0#4 0#4 0#4 0#4 0x00#8
  | .clr d => packFields 0x01#8 d 0#4 0#4 0#4 0x00#8
  | .modred d a c => packFields 0x02#8 d a 0#4 c 0x00#8
  | .mconst c => packFields 0x03#8 0#4 0#4 0#4 c 0x00#8
  | .modsqr d a c => packFields 0x04#8 d a 0#4 c 0x00#8
  | .sqrloop d a c strict => packFields 0x05#8 d a 0#4 c (flagsOf strict)
  | .modpow d a b c => packFields 0x06#8 d a b c 0x00#8
  | .trialdiv a => packFields 0x07#8 0#4 a 0#4 0#4 0x00#8
  | .mrround a b => packFields 0x08#8 0#4 a b 0#4 0x00#8
  | .mrtest a random => packFields 0x09#8 0#4 a 0#4 0#4 (flagsOf random)
  | .randcand d blum => packFields 0x0A#8 d 0#4 0#4 0#4 (flagsOf blum)
  | .wfchk => packFields 0x0B#8 0#4 0#4 0#4 0#4 0x00#8

/-- One row of R95's table: a word is this command when `w &&& mask = pattern`. -/
structure OpcodeRow where
  mnemonic : String
  pattern : Word
  mask : Word
  deriving DecidableEq, Repr

/-- R95's opcode map. The decoder does not use it; it is stated to select the same words. -/
def opcodeRows : List OpcodeRow :=
  [⟨"NOP", 0x00000000#32, 0xFFFFFFFF#32⟩,
   ⟨"CLR", 0x01000000#32, 0xFF8FFFFF#32⟩,
   ⟨"MODRED", 0x02000000#32, 0xFF88F8FF#32⟩,
   ⟨"MCONST", 0x03000000#32, 0xFFFFF8FF#32⟩,
   ⟨"MODSQR", 0x04000000#32, 0xFF88F8FF#32⟩,
   ⟨"SQRLOOP", 0x05000000#32, 0xFF88F8FE#32⟩] ++
  [⟨"MODPOW", 0x06000000#32, 0xFF8888FF#32⟩,
   ⟨"TRIALDIV", 0x07000000#32, 0xFFF8FFFF#32⟩,
   ⟨"MRROUND", 0x08000000#32, 0xFFF88FFF#32⟩,
   ⟨"MRTEST", 0x09000000#32, 0xFFF8FFFE#32⟩,
   ⟨"RANDCAND", 0x0A000000#32, 0xFF8FFFFE#32⟩,
   ⟨"WFCHK", 0x0B000000#32, 0xFFFFFFFF#32⟩]

/-- The word matches the row (R95). -/
def OpcodeRow.selects (r : OpcodeRow) (w : Word) : Bool := w &&& r.mask == r.pattern

/-- The command's mnemonic (R95). -/
def Instr.mnemonic : Instr → String
  | .nop => "NOP"
  | .clr .. => "CLR"
  | .modred .. => "MODRED"
  | .mconst .. => "MCONST"
  | .modsqr .. => "MODSQR"
  | .sqrloop .. => "SQRLOOP"
  | .modpow .. => "MODPOW"
  | .trialdiv .. => "TRIALDIV"
  | .mrround .. => "MRROUND"
  | .mrtest .. => "MRTEST"
  | .randcand .. => "RANDCAND"
  | .wfchk => "WFCHK"

/-- The big register the command names in RD, if it has a destination (R92; the list of
70_reset_and_hazards.md R233). -/
def Instr.destination : Instr → Option RegField
  | .clr d => some d
  | .modred d _ _ => some d
  | .modsqr d _ _ => some d
  | .sqrloop d _ _ _ => some d
  | .modpow d _ _ _ => some d
  | .randcand d _ => some d
  | .nop => none
  | .mconst _ => none
  | .trialdiv _ => none
  | .mrround _ _ => none
  | .mrtest _ _ => none
  | .wfchk => none

/-- The big registers the command reads (R92, R94). -/
def Instr.sources : Instr → List RegField
  | .modred _ a c => [a, c]
  | .mconst c => [c]
  | .modsqr _ a c => [a, c]
  | .sqrloop _ a c _ => [a, c]
  | .modpow _ a b c => [a, b, c]
  | .trialdiv a => [a]
  | .mrround a b => [a, b]
  | .mrtest a _ => [a]
  | .nop => []
  | .clr _ => []
  | .randcand _ _ => []
  | .wfchk => []

end Sys2Proof
end

