-- ==== Sys2Proof/Config.lean ====
section
/-! DEFINITION. What an implementation fixes, and the values the spec leaves open. The `opaque` constants have no
body: nothing can be proved of their values, so a claim that mentions them holds whatever the hardware gives. -/

namespace Sys2Proof.Config

/-- The default number of words per big register (00_scope.md R6). DESIGN CHOICE, log entry 1: `State.nw` carries
the parameter NW and only `State.reset` names this default. -/
def defaultNW : Nat := 1024

/-- ID reads this at all times (10_state.md R23). -/
def idValue : Word := 0x4D4B5701#32

/-- RNG_STREAM, indexed by how many words were taken since power-on (10_state.md R45, D30): "a parameter under no
law". Log entry 6. -/
opaque rngStream : Nat → Word

/-- The word a host read gives where the spec says "any 32-bit value" (20_memory.md R75; 93 rows 2 and 3). Applied
to the count of draws so far. Log entry 7. -/
opaque freeWord : Nat → Word

/-- The SIGN bit of a destination whose command was abandoned (70_reset_and_hazards.md R233; 93 row 4). Log entry 7. -/
opaque freeSign : Nat → Bool

/-- The number of entropy words an abandoned command took (70_reset_and_hazards.md R233; 93 row 5). Log entries 7
and 10. -/
opaque freeCount : Nat → Nat

/-- `State.patience` at reset. DESIGN CHOICE, log entry 8. -/
def firstPatience : Nat := 64

end Sys2Proof.Config
end

