-- ==== Sys2Proof/Machine/State.lean ====
section
/-! DEFINITION. The state of the engine (spec/10_state.md), what reaches it from outside (spec/20_memory.md,
spec/70_reset_and_hazards.md), why a step can stop, and the state after reset. Plain data throughout. -/

namespace Sys2Proof.Machine

/-- The operand RAM: cells keyed by byte offset, offsets strictly rising. An offset that is not listed has no value:
its word was never written since power-on (10_state.md R47; log entries 2 and 3). -/
abbrev Memory := List Host.Cell

/-- The error codes of 60_exceptions.md R200. Codes 11-255 are never raised, so they have no name. -/
inductive ErrCode where
  | noError
  | illegalOpcode
  | illegalEncoding
  | invalidModulus
  | divByZero
  | negExponent
  | evenModulus
  | operandRange
  | invalidWorkfactor
  | modulusTooSmall
  | invalidBitlen
  deriving DecidableEq, Repr

/-- LASTRED's values (10_state.md R43): 0 a trivial case, 1 Montgomery, 2 Barrett; 3 is never written. -/
inductive Reduction where
  | noReduction
  | montgomery
  | barrett
  deriving DecidableEq, Repr

/-- The stored bits of CTRL (10_state.md R24). SRST reads 0 and is not stored. -/
structure Ctrl where
  doneie : Bool
  errie : Bool
  deriving DecidableEq, Repr

/-- The bits of STATUS (10_state.md R25-R29). -/
structure Status where
  busy : Bool
  done : Bool
  err : Bool
  result : Bool
  ovr : Bool
  deriving DecidableEq, Repr

/-- A bus response (20_memory.md R67). -/
inductive Resp where
  | okay
  | slverr
  deriving DecidableEq, Repr

/-- One host access to the engine's window: its offset and its four byte strobes, which are all set for a word
access (20_memory.md R67). -/
inductive Access where
  | read (off : Offset) (strobes : BitVec 4)
  | write (off : Offset) (strobes : BitVec 4) (v : Word)
  deriving DecidableEq, Repr

/-- One event of an interleaving (20_memory.md R73): a host access, the engine's turn to complete its pending
command, or the reset input (70_reset_and_hazards.md R230). Log entry 5. -/
inductive Input where
  | bus (a : Access)
  | engine
  | hardReset
  deriving DecidableEq, Repr

/-- Everything the spec gives the engine, and the model's own `draws` and `patience` (log entries 7 and 8). -/
structure State where
  /-- NW, the CFG register's field (10_state.md R38, 00_scope.md R7). No step changes it. -/
  nw : Nat
  /-- The operand RAM (20_memory.md R63). -/
  mem : Memory
  ctrl : Ctrl
  status : Status
  /-- The last accepted command word (10_state.md R30). -/
  cmd : Word
  errcode : ErrCode
  /-- SIGN bits 7:0 (10_state.md R32). -/
  sign : BitVec 8
  wf : Word
  cert : Word
  nbits : Word
  mconst : Word
  wfsug : Word
  mrrounds : Word
  lastred : Reduction
  /-- WINSZ bits 3:0 (10_state.md R44). -/
  winsz : BitVec 4
  rngcnt : Word
  /-- The accepted command word while BUSY = 1 (10_state.md R41, R48). -/
  pending : Option Word
  /-- How many entropy words were taken since power-on (10_state.md R48). -/
  streamPos : Nat
  /-- The next entropy words, as far as the environment has fixed them; after them comes `Config.rngStream`
  (10_state.md R45; log entry 6). -/
  entropy : List Word
  /-- Data of the last host read (20_memory.md R70). -/
  rdata : Word
  /-- Response of the last host access (20_memory.md R67, R70, R71). -/
  resp : Resp
  /-- What is still to happen, first event first (log entry 5). -/
  inputs : List Input
  /-- How many free values were drawn (log entry 7). -/
  draws : Nat
  /-- How many draws one Miller-Rabin round may try in one engine turn (log entry 8). -/
  patience : Nat
  deriving DecidableEq, Repr

/-- Why a step stops. -/
inductive Fault where
  /-- A command reads a big register with a word never written since power-on (10_state.md R47,
  60_exceptions.md R208). Raised by the eight commands with a source register. Safe: the hardware goes on and
  computes on whatever the RAM holds. -/
  | uninitOperand
  deriving DecidableEq, Repr

/-- Why a command has no meaning here. -/
inductive Refusal where
  /-- The command has no meaning in this model yet. Raised by `exec` only, in a refused arm. Safe. -/
  | notModelled (mnemonic : String)
  deriving DecidableEq, Repr

/-- The outcome of one step of the engine. -/
abbrev Result := Host.Outcome State Fault Refusal

/-- After a hardware reset at power-on (70_reset_and_hazards.md R230, R231): every CSR at its reset value, the
operand RAM unwritten, nothing pending, no entropy word taken. -/
def State.reset : State where
  nw := Config.defaultNW
  mem := []
  ctrl := ⟨false, false⟩
  status := ⟨false, false, false, false, false⟩
  cmd := 0
  errcode := .noError
  sign := 0
  wf := 0
  cert := 0
  nbits := 0
  mconst := 0
  wfsug := 0
  mrrounds := 0
  lastred := .noReduction
  winsz := 0
  rngcnt := 0
  pending := none
  streamPos := 0
  entropy := []
  rdata := 0
  resp := .okay
  inputs := []
  draws := 0
  patience := Config.firstPatience

end Sys2Proof.Machine
end

