-- ==== Sys2Proof/Machine/Ops.lean ====
section
/-! DEFINITION. The shared operations: the operand RAM, the entropy stream and free values, and the life of a
command, namely acceptance, completion and `raise Error` (spec/10_state.md R41, R42, R45; spec/60_exceptions.md
R203, which stands where other machines take an exception). -/

namespace Sys2Proof.Machine

/-! ### Operand RAM: blocks of bytes -/

/-- The cells of the `n` bytes from `lo`. -/
def Memory.window (m : Memory) (lo n : Nat) : Memory :=
  m.filter fun c => decide (lo ≤ c.1) && decide (c.1 < lo + n)

/-- The `n` bytes from `lo`, if every one of them is listed. -/
def Memory.load (m : Memory) (lo n : Nat) : Option (List Byte) :=
  if (m.window lo n).map Prod.fst = List.range' lo n then some ((m.window lo n).map Prod.snd) else none

/-- Removes the `n` bytes from `lo`: they read as unwritten afterwards. -/
def Memory.forget (m : Memory) (lo n : Nat) : Memory :=
  m.filter (fun c => decide (c.1 < lo)) ++ m.filter fun c => decide (lo + n ≤ c.1)

/-- The cells of the bytes `bs` from `lo` on. -/
def Memory.cellsFrom : Nat → List Byte → Memory
  | _, [] => []
  | lo, b :: bs => (lo, b) :: cellsFrom (lo + 1) bs

/-- Writes the bytes `bs` from `lo` on: the ONE way the operand RAM gains a value. -/
def Memory.store (m : Memory) (lo : Nat) (bs : List Byte) : Memory :=
  m.filter (fun c => decide (c.1 < lo)) ++
    (Memory.cellsFrom lo bs ++ m.filter fun c => decide (lo + bs.length ≤ c.1))

/-- One byte. -/
def Memory.readByte (m : Memory) (a : Nat) : Option Byte :=
  match m.load a 1 with
  | some (b :: _) => some b
  | _ => none

/-- The canonical form: offsets strictly rising. Unlisted offsets have no value, so no entry can equal one. -/
abbrev Memory.wf (m : Memory) : Prop := (m.map Prod.fst).Pairwise (· < ·)

/-! ### Operand RAM: words. Bytes inside a word follow the convention of 20_memory.md R65 (log entry 2). -/

/-- Image byte t of a word is bits [31-8t : 24-8t] (20_memory.md R65). -/
def wordBytes (w : Word) : List Byte :=
  [w.extractLsb' 24 8, w.extractLsb' 16 8, w.extractLsb' 8 8, w.extractLsb' 0 8]

/-- Groups image bytes into words, four at a time. -/
def bytesToWords : List Byte → List Word
  | b0 :: b1 :: b2 :: b3 :: rest => (b0 ++ b1 ++ b2 ++ b3) :: bytesToWords rest
  | _ => []

/-- The `n` words from `lo`, if all are written. -/
def Memory.loadWords (m : Memory) (lo n : Nat) : Option (List Word) := (m.load lo (4 * n)).map bytesToWords

/-- Writes the words `ws` from `lo` on. -/
def Memory.storeWords (m : Memory) (lo : Nat) (ws : List Word) : Memory := m.store lo (ws.flatMap wordBytes)

/-- The word at `a`, if it is written (10_state.md R47). -/
def Memory.loadWord (m : Memory) (a : Nat) : Option Word :=
  match m.loadWords a 1 with
  | some (w :: _) => some w
  | _ => none

/-- Writes one word. -/
def Memory.storeWord (m : Memory) (a : Nat) (w : Word) : Memory := m.storeWords a [w]

/-! ### Entropy source (10_state.md R45) -/

/-- The entropy word that will be taken after `k` more: the fixed words first, then RNG_STREAM. -/
def State.streamWord (s : State) (k : Nat) : Word := (s.entropy[k]?).getD (Config.rngStream (s.streamPos + k))

/-- The state after `n` calls of RngWord(). -/
def State.takeWords (s : State) (n : Nat) : State :=
  { s with entropy := s.entropy.drop n, streamPos := s.streamPos + n }

/-! ### Free values (log entry 7) -/

/-- The state after drawing a free value. -/
def State.drawn (s : State) : State := { s with draws := s.draws + 1 }

/-! ### The life of a command -/

/-- Acceptance of the command word `v` (10_state.md R41). -/
def State.accept (s : State) (v : Word) : State :=
  { s with
    cmd := v
    pending := some v
    status := { s.status with busy := true, done := false, err := false, result := false }
    errcode := .noError }

/-- RNGCNT's value for `cnt` words: it saturates (10_state.md R46). -/
def saturate32 (cnt : Nat) : Word := BitVec.ofNat 32 (min cnt 0xFFFFFFFF)

/-- The end of a completion step without error (10_state.md R42), for a command that took no entropy word or whose
words `State.takeWords` has already taken. -/
def State.complete (s : State) (cnt : Nat) : State :=
  { s with
    rngcnt := saturate32 cnt
    status := { s.status with done := true, busy := false }
    pending := none }

/-- `raise Error(code)` (60_exceptions.md R203): every error is raised before any entropy word is taken. -/
def State.raiseError (s : State) (code : ErrCode) : State :=
  { s with
    errcode := code
    rngcnt := 0
    status := { s.status with err := true, done := true, busy := false }
    pending := none }

/-- Sets STATUS.RESULT (10_state.md R28). -/
def State.setResult (s : State) (b : Bool) : State := { s with status := { s.status with result := b } }

/-- The error a word that does not decode raises (30_encoding.md R96). -/
def decodeErrCode : DecodeError → ErrCode
  | .illegalOpcode => .illegalOpcode
  | .illegalEncoding => .illegalEncoding

/-- The engine's end of a command: the next state is `s` completed with `cnt` entropy words (10_state.md R42). -/
def finish (s : State) (cnt : Nat) : Result := .next (s.complete cnt)

/-- The engine's end of a command in error (60_exceptions.md R203). -/
def fail (s : State) (code : ErrCode) : Result := .next (s.raiseError code)

/-- The code in ERRCODE[7:0] (60_exceptions.md R200). -/
def errNumber : ErrCode → BitVec 8
  | .noError => 0
  | .illegalOpcode => 1
  | .illegalEncoding => 2
  | .invalidModulus => 3
  | .divByZero => 4
  | .negExponent => 5
  | .evenModulus => 6
  | .operandRange => 7
  | .invalidWorkfactor => 8
  | .modulusTooSmall => 9
  | .invalidBitlen => 10

end Sys2Proof.Machine
end

