-- ==== Sys2Proof/Machine/Operands.lean ====
section
/-! DEFINITION. The operand forms: a big register named by a 4-bit field, read as a signed integer and written as a
residue (spec/10_state.md R20-R22, R47; spec/00_scope.md R9). -/

namespace Sys2Proof.Machine

/-- The offset of word `j` of Bi: `0x10000 + 4·(i·NW + j)` (20_memory.md R63). -/
def wordOffset (nw i j : Nat) : Nat := 0x10000 + 4 * (i * nw + j)

/-- The offset just past the operand RAM (20_memory.md R63). -/
def ramEnd (nw : Nat) : Nat := 0x10000 + 32 * nw

/-- The NW words of Bi, most significant first, if every one was written since power-on (10_state.md R47). -/
def State.regWords (s : State) (i : RegField) : Option (List Word) :=
  s.mem.loadWords (wordOffset s.nw i.toNat 0) s.nw

/-- `Mag(i)` of the words, most significant first (10_state.md R21). -/
def magnitude (ws : List Word) : Nat := ws.foldl (fun acc w => acc * 2 ^ 32 + w.toNat) 0

/-- SIGN bit i (10_state.md R32). -/
def State.signBit (s : State) (i : RegField) : Bool := s.sign.getLsbD i.toNat

/-- `Val(i)` from a magnitude and a sign bit: 0 when the magnitude is 0, whatever the sign (10_state.md R21, R22). -/
def signedValue (mag : Nat) (negative : Bool) : Int :=
  if mag = 0 then 0 else if negative then -(mag : Int) else (mag : Int)

/-- `x[i]`, or none where a word of Bi was never written (10_state.md R21, R47). -/
def State.val? (s : State) (i : RegField) : Option Int :=
  match s.regWords i with
  | none => none
  | some ws => some (signedValue (magnitude ws) (s.signBit i))

/-- Continues with `x[i]`, or faults with UninitOperand (10_state.md R47). -/
def withSource (s : State) (i : RegField) (k : Int → Result) : Result :=
  match s.val? i with
  | none => .fault .uninitOperand
  | some v => k v

/-- The NW words that hold `v`: word j is `(v >> (32·(NW−1−j))) mod 2^32` (00_scope.md R9). -/
def imageWords (nw v : Nat) : List Word :=
  (List.range nw).map fun j => BitVec.ofNat 32 (v >>> (32 * (nw - 1 - j)))

/-- SIGN with bit i cleared. -/
def clearSign (sign : BitVec 8) (i : RegField) : BitVec 8 := sign &&& ~~~(1#8 <<< i.toNat)

/-- SIGN with bit i as given. -/
def putSign (sign : BitVec 8) (i : RegField) (b : Bool) : BitVec 8 :=
  if b then sign ||| 1#8 <<< i.toNat else clearSign sign i

/-- `x[i] <- v`: all NW words written, SIGN[i] cleared (00_scope.md R9, 10_state.md R22). -/
def State.writeReg (s : State) (i : RegField) (v : Nat) : State :=
  { s with
    mem := s.mem.storeWords (wordOffset s.nw i.toNat 0) (imageWords s.nw v)
    sign := clearSign s.sign i }

/-- Marks every word of Bi unwritten and sets its SIGN bit (70_reset_and_hazards.md R233). -/
def State.spoilReg (s : State) (i : RegField) (b : Bool) : State :=
  { s with
    mem := s.mem.forget (wordOffset s.nw i.toNat 0) (4 * s.nw)
    sign := putSign s.sign i b }

end Sys2Proof.Machine
end

