-- ==== Sys2Proof/Machine/Flags.lean ====
section
/-! DEFINITION. Status and informational fields: how STATUS and CTRL read as words, write-1-to-clear, the interrupt
output, and the CSRs that report how a modular command ran (spec/10_state.md R24-R29, R49; spec/41_modexp.md R124,
R125). -/

namespace Sys2Proof.Machine

/-- A bit as a word. -/
def bitWord (b : Bool) (k : Nat) : Word := if b then 1#32 <<< k else 0#32

/-- STATUS as it reads: bits 31:5 are 0 (10_state.md R25-R29). -/
def Status.word (t : Status) : Word :=
  bitWord t.busy 0 ||| bitWord t.done 1 ||| bitWord t.err 2 ||| bitWord t.result 3 ||| bitWord t.ovr 4

/-- CTRL as it reads: SRST and bits 31:3 are 0 (10_state.md R24). -/
def Ctrl.word (c : Ctrl) : Word := bitWord c.doneie 1 ||| bitWord c.errie 2

/-- A host write of `v` to STATUS: 1 clears DONE, ERR, OVR; BUSY and RESULT are read-only (10_state.md R26, R27,
R29). -/
def Status.clearOnes (t : Status) (v : Word) : Status :=
  { t with
    done := t.done && !v.getLsbD 1
    err := t.err && !v.getLsbD 2
    ovr := t.ovr && !v.getLsbD 4 }

/-- `irq = (DONE and DONEIE) or (ERR and ERRIE)` (10_state.md R49). -/
def State.irq (s : State) : Bool := s.status.done && s.ctrl.doneie || s.status.err && s.ctrl.errie

/-- LASTRED bits 1:0 (10_state.md R43). -/
def redNumber : Reduction → Word
  | .noReduction => 0
  | .montgomery => 1
  | .barrett => 2

/-- R124: LASTRED, and MCONST on the Montgomery path, for a modulus `m > 0`. -/
def State.reportPath (s : State) (isTrivial : Bool) (m : Nat) : State :=
  if isTrivial then { s with lastred := .noReduction }
  else if m % 2 = 1 then { s with lastred := .montgomery, mconst := montgomeryConstant m }
  else { s with lastred := .barrett }

/-- WINSZ (10_state.md R44). -/
def State.setWinsz (s : State) (w : BitVec 4) : State := { s with winsz := w }

/-- LASTRED alone (MODRED, 41_modexp.md R122). -/
def State.setLastred (s : State) (r : Reduction) : State := { s with lastred := r }

/-- The sliding-window width for an exponent of `l` bits, `l ≥ 1` (41_modexp.md R125). -/
def windowWidth (l : Nat) : BitVec 4 :=
  if l ≤ 7 then 1
  else if l ≤ 25 then 2
  else if l ≤ 81 then 3
  else if l ≤ 241 then 4
  else if l ≤ 673 then 5
  else if l ≤ 1793 then 6
  else 7

end Sys2Proof.Machine
end

