-- ==== Sys2Proof/Machine/Reset.lean ====
section
/-! DEFINITION. Soft and hardware reset, and the abandoning of a pending command (spec/70_reset_and_hazards.md). -/

namespace Sys2Proof.Machine

/-- Every CSR but SIGN at its reset value, nothing pending (R230, R232). -/
def State.resetCsrs (s : State) : State :=
  { s with
    ctrl := ⟨false, false⟩
    status := ⟨false, false, false, false, false⟩
    cmd := 0
    errcode := .noError
    wf := 0
    cert := 0
    nbits := 0
    mconst := 0
    wfsug := 0
    mrrounds := 0
    lastred := .noReduction
    winsz := 0
    rngcnt := 0
    pending := none }

/-- The destination of the command word `w`, if it decodes to a command that has one (R233; log entry 9). -/
def wordDestination (w : Word) : Option RegField :=
  match decode w with
  | .ok i => i.destination
  | .error _ => none

/-- The entropy words an abandoned command took: a free count (R233; 93 row 5; log entry 10). -/
def State.loseWords (s : State) : State := (s.takeWords (Config.freeCount s.draws)).drawn

/-- A soft reset abandons the pending command `w`: its destination is left with unspecified words (here: unwritten)
and an unspecified SIGN bit (R233). -/
def State.abandon (s : State) (w : Word) : State :=
  match wordDestination w with
  | none => s.loseWords
  | some d => (s.spoilReg d (Config.freeSign s.draws)).loseWords

/-- Soft reset, a host write to CTRL with bit 0 = 1 (R232, R233): SIGN, the operand RAM and the entropy stream stay,
but for what an abandoned command leaves. -/
def State.softReset (s : State) : State :=
  match s.pending with
  | none => s.resetCsrs
  | some w => (s.abandon w).resetCsrs

/-- Hardware reset (R230, R231, R233): SIGN too is 0, and every operand-RAM word is unwritten. The entropy stream
goes on (log entry 11). -/
def State.hardReset (s : State) : State :=
  match s.pending with
  | none => { s with sign := 0, mem := [] }.resetCsrs
  | some _ => { s with sign := 0, mem := [] }.loseWords.resetCsrs

end Sys2Proof.Machine
end

