-- ==== Sys2Proof/Machine/Bus.lean ====
section
/-! DEFINITION. The bus slave port: the CSR map and host reads and writes (spec/10_state.md section 2;
spec/20_memory.md). -/

namespace Sys2Proof.Machine

/-- CFG: bits 15:0 NW, bits 23:16 NREGS = 8 (10_state.md R38). -/
def cfgWord (nw : Nat) : Word := BitVec.ofNat 32 nw &&& 0xFFFF#32 ||| 0x00080000#32

/-- The CSR at offset 4·k reads as this; 0 where there is none (10_state.md section 2; 20_memory.md R62). -/
def State.readCsr (s : State) (k : Nat) : Word :=
  match k with
  | 0 => Config.idValue
  | 1 => s.ctrl.word
  | 2 => s.status.word
  | 3 => s.cmd
  | 4 => (errNumber s.errcode).setWidth 32
  | 5 => s.sign.setWidth 32
  | 6 => s.wf
  | 7 => s.cert
  | 8 => s.nbits
  | 9 => s.mconst
  | 10 => s.wfsug
  | 11 => s.mrrounds
  | 12 => redNumber s.lastred
  | 13 => s.winsz.setWidth 32
  | 14 => cfgWord s.nw
  | 15 => s.rngcnt
  | _ => 0

/-- The offset lies in the operand RAM (20_memory.md R63). -/
def inRam (nw off : Nat) : Bool := decide (0x10000 ≤ off) && decide (off < ramEnd nw)

/-- A word access: aligned, every byte strobe set (20_memory.md R67). -/
def wordAccess (off : Offset) (strobes : BitVec 4) : Bool := off.toNat % 4 == 0 && strobes == 0b1111#4

/-- Answers a read with data `v`. -/
def State.answer (s : State) (v : Word) : State := { s with rdata := v, resp := .okay }

/-- Answers a read with "any 32-bit value" (20_memory.md R75; 93 rows 2 and 3). -/
def State.answerFree (s : State) : State := (s.answer (Config.freeWord s.draws)).drawn

/-- `MemRead(off, 4)` for a word-aligned offset (20_memory.md R70). -/
def State.busRead (s : State) (off : Nat) : State :=
  if off < 0x40 then s.answer (s.readCsr (off / 4))
  else if inRam s.nw off then
    if s.status.busy then s.answerFree
    else
      match s.mem.loadWord off with
      | some v => s.answer v
      | none => s.answerFree
  else s.answer 0

/-- A host write of `v` to CTRL (10_state.md R24). -/
def State.writeCtrl (s : State) (v : Word) : State :=
  if v.getLsbD 0 then s.softReset else { s with ctrl := ⟨v.getLsbD 1, v.getLsbD 2⟩ }

/-- A busy-guarded write while BUSY = 1: dropped, OVR set (10_state.md R29). -/
def State.dropWrite (s : State) : State := { s with status := { s.status with ovr := true } }

/-- A busy-guarded write: it happens only while idle (10_state.md R29). -/
def State.guarded (s t : State) : State := if s.status.busy then s.dropWrite else t

/-- What a word-aligned write does to the engine's registers (20_memory.md R71). -/
def State.writeAt (s : State) (off : Nat) (v : Word) : State :=
  if off = 0x004 then s.writeCtrl v
  else if off = 0x008 then { s with status := s.status.clearOnes v }
  else if off = 0x00C then s.guarded (s.accept v)
  else if off = 0x014 then s.guarded { s with sign := v.setWidth 8 }
  else if off = 0x018 then s.guarded { s with wf := v }
  else if off = 0x01C then s.guarded { s with cert := v }
  else if off = 0x020 then s.guarded { s with nbits := v }
  else if inRam s.nw off then s.guarded { s with mem := s.mem.storeWord off v }
  else s

/-- `MemWrite(off, 4, v)` for a word-aligned offset: the response is OKAY (20_memory.md R71). -/
def State.busWrite (s : State) (off : Nat) (v : Word) : State := { s.writeAt off v with resp := .okay }

/-- One host access; a misaligned or narrow one is not performed and gets SLVERR, a read then giving 0
(20_memory.md R67). -/
def State.access (s : State) : Access → State
  | .read off strobes =>
    if wordAccess off strobes then s.busRead off.toNat else { s with rdata := 0, resp := .slverr }
  | .write off strobes v =>
    if wordAccess off strobes then s.busWrite off.toNat v else { s with resp := .slverr }

end Sys2Proof.Machine
end

