-- ==== Sys2Proof/Machine/General.lean ====
section
/-! DEFINITION. NOP and CLR (spec/40_general.md). -/

namespace Sys2Proof.Machine

/-- NOP (R110): nothing beyond completion. -/
def execNop (s : State) : Result := finish s 0

/-- CLR Bd (R111): `x[d] <- 0`; it reads no operand. -/
def execClr (d : RegField) (s : State) : Result := finish (s.writeReg d 0) 0

end Sys2Proof.Machine
end

