-- ==== Sys2Proof/Machine/Modexp.lean ====
section
/-! DEFINITION. MCONST, MODRED, MODSQR and MODPOW (spec/41_modexp.md). Every named source is read before any check
(log entry 4); the checks stand in the order of 60_exceptions.md R202. -/

namespace Sys2Proof.Machine

/-- MCONST Bc (R121). -/
def execMconst (c : RegField) (s : State) : Result :=
  withSource s c fun m =>
    if m ≤ 0 then fail s .invalidModulus
    else if m % 2 = 0 then fail s .evenModulus
    else finish { s with mconst := montgomeryConstant m.toNat } 0

/-- MODRED Bd, Ba, Bc (R122): the floor modulus, by Barrett reduction for every `m`. -/
def execModred (d a c : RegField) (s : State) : Result :=
  withSource s a fun x =>
    withSource s c fun m =>
      if m = 0 then fail s .divByZero
      else if m < 0 then fail s .invalidModulus
      else finish (((s.writeReg d (x % m).toNat).setLastred .barrett).setWinsz 0) 0

/-- MODSQR Bd, Ba, Bc (R128). -/
def execModsqr (d a c : RegField) (s : State) : Result :=
  withSource s a fun x =>
    withSource s c fun m =>
      if m ≤ 0 then fail s .invalidModulus
      else finish (((s.writeReg d (x * x % m).toNat).reportPath (m == 1) m.toNat).setWinsz 0) 0

/-- R129's result for `m > 0` and `e ≥ 0`. -/
def modpowResult (g : Int) (e m : Nat) : Nat :=
  if m = 1 then 0 else if e = 0 then 1 else powMod (g % (m : Int)).toNat e m

/-- R129's trivial cases: `m = 1` or `e = 0`. -/
def modpowTrivial (e m : Nat) : Bool := m == 1 || e == 0

/-- MODPOW Bd, Ba, Bb, Bc (R129). -/
def execModpow (d a b c : RegField) (s : State) : Result :=
  withSource s a fun g =>
    withSource s b fun e =>
      withSource s c fun m =>
        if m ≤ 0 then fail s .invalidModulus
        else if e < 0 then fail s .negExponent
        else
          finish
            (((s.writeReg d (modpowResult g e.toNat m.toNat)).reportPath (modpowTrivial e.toNat m.toNat)
                m.toNat).setWinsz
              (if modpowTrivial e.toNat m.toNat then 0 else windowWidth (bitlen e.toNat))) 0

end Sys2Proof.Machine
end

