-- ==== Sys2Proof/Machine/Random.lean ====
section
/-! DEFINITION. Random bits and RANDCAND (spec/43_random.md). A draw is a function of the words still to come
(`State.streamWord`) and of where in them it starts. -/

namespace Sys2Proof.Machine

/-- `n` entropy words from `pos`, appended to `v`, the first most significant (R170). -/
def drawWords (stream : Nat → Word) : Nat → Nat → Nat → Nat
  | _, 0, v => v
  | pos, n + 1, v => drawWords stream (pos + 1) n (v * 2 ^ 32 + (stream pos).toNat)

/-- `draw_bits(L)` from `pos`: the low L bits of ceil(L/32) words (R170). -/
def drawBits (stream : Nat → Word) (pos l : Nat) : Nat := drawWords stream pos (wordsOf l) 0 % 2 ^ l

/-- The candidate made from the drawn value: bits L−1, L−2 and 0 forced, with BLUM bit 1 too (R171). -/
def forceBits (v l : Nat) (blum : Bool) : Nat :=
  let odd := v ||| 2 ^ (l - 1) ||| 2 ^ (l - 2) ||| 1
  if blum then odd ||| 2 else odd

/-- RANDCAND Bd [, BLUM] (R171). -/
def execRandcand (d : RegField) (blum : Bool) (s : State) : Result :=
  if s.nbits.toNat < 4 ∨ s.nbits.toNat > 32 * s.nw then fail s .invalidBitlen
  else
    finish
      ((s.writeReg d (forceBits (drawBits s.streamWord 0 s.nbits.toNat) s.nbits.toNat blum)).takeWords
        (wordsOf s.nbits.toNat))
      (wordsOf s.nbits.toNat)

end Sys2Proof.Machine
end

