-- ==== Sys2Proof/Machine/Primality.lean ====
section
/-! DEFINITION. Trial division, the Miller-Rabin round and the probable-prime test (spec/42_primality.md). -/

namespace Sys2Proof.Machine

/-- R157's 52 batches of trial-division primes. -/
def trialBatches : List (List Nat) :=
  [[3, 5, 7, 11, 13, 17, 19, 23],
   [29, 31, 37, 41, 43],
   [47, 53, 59, 61, 67],
   [71, 73, 79, 83],
   [89, 97, 101, 103],
   [107, 109, 113, 127],
   [131, 137, 139, 149],
   [151, 157, 163, 167],
   [173, 179, 181, 191],
   [193, 197, 199, 211],
   [223, 227, 229],
   [233, 239, 241],
   [251, 257, 263]] ++
  [[269, 271, 277],
   [281, 283, 293],
   [307, 311, 313],
   [317, 331, 337],
   [347, 349, 353],
   [359, 367, 373],
   [379, 383, 389],
   [397, 401, 409],
   [419, 421, 431],
   [433, 439, 443],
   [449, 457, 461],
   [463, 467, 479],
   [487, 491, 499]] ++
  [[503, 509, 521],
   [523, 541, 547],
   [557, 563, 569],
   [571, 577, 587],
   [593, 599, 601],
   [607, 613, 617],
   [619, 631, 641],
   [643, 647, 653],
   [659, 661, 673],
   [677, 683, 691],
   [701, 709, 719],
   [727, 733, 739],
   [743, 751, 757]] ++
  [[761, 769, 773],
   [787, 797, 809],
   [811, 821, 823],
   [827, 829, 839],
   [853, 857, 859],
   [863, 877, 881],
   [883, 887, 907],
   [911, 919, 929],
   [937, 941, 947],
   [953, 967, 971],
   [977, 983, 991],
   [997, 1009, 1013],
   [1019, 1021]]

/-- TP, the 171 odd primes 3, 5, 7, …, 1021 (R150, R157). -/
def trialPrimes : List Nat := trialBatches.flatten

/-- What trial division says of a candidate (R150). -/
inductive Verdict where
  | prime
  | composite
  | undecided
  deriving DecidableEq, Repr

/-- `classify(n)` for `n ≥ 0` (R150); a negative candidate raises OPERAND_RANGE before it. -/
def classify (n : Nat) : Verdict :=
  if n ≤ 1 then .composite
  else if n = 2 then .prime
  else if n % 2 = 0 then .composite
  else if trialPrimes.contains n then .prime
  else if trialPrimes.any (fun p => n % p == 0) then .composite
  else .undecided

/-- `v = 2^s · t`: gives (s, t), with t odd when `0 < v < 2^fuel` (R152). -/
def splitTwos : Nat → Nat → Nat × Nat
  | 0, v => (0, v)
  | fuel + 1, v => if v % 2 = 0 then ((splitTwos fuel (v / 2)).1 + 1, (splitTwos fuel (v / 2)).2) else (0, v)

/-- R152's `repeat`: `k` squarings of `y`, looking for n − 1. -/
def mrSquarings (n : Nat) : Nat → Nat → Bool
  | 0, _ => false
  | k + 1, y =>
    if y * y % n = n - 1 then true
    else if y * y % n = 1 then false
    else mrSquarings n k (y * y % n)

/-- `MR(n, a)`: n is a strong probable prime to base a (R152). -/
def mrRound (n a : Nat) : Bool :=
  let st := splitTwos (bitlen (n - 1)) (n - 1)
  let y := powMod (a % n) st.2 n
  if y = 1 ∨ y = n - 1 then true else mrSquarings n (st.1 - 1) y

/-- i100: the rounds that suffice for certainty 100 at L bits (R154). -/
def roundsFor100 (l : Nat) : Nat :=
  if l ≥ 1024 then 4 else if l ≥ 512 then 8 else if l ≥ 256 then 16 else 50

/-- `rounds(c, L, random)` (R154). -/
def mrRounds (c l : Nat) (random : Bool) : Nat :=
  if !random then (c + 1) / 2
  else if c < 100 then min (roundsFor100 l) ((c + 1) / 2)
  else (c + 1) / 2 - 50 + roundsFor100 l

/-- `pick_base(n)` with at most `tries` draws from `pos`: the base and the position after it; none where no draw
gave a base in [2, n − 2] (R155; log entry 8). -/
def pickBase (stream : Nat → Word) (n : Nat) : Nat → Nat → Option (Nat × Nat)
  | 0, _ => none
  | tries + 1, pos =>
    if 2 ≤ drawBits stream pos (bitlen n) ∧ drawBits stream pos (bitlen n) ≤ n - 2 then
      some (drawBits stream pos (bitlen n), pos + wordsOf (bitlen n))
    else pickBase stream n tries (pos + wordsOf (bitlen n))

/-- How MRTEST's rounds ended: RESULT, the number of the last round, the entropy words taken. -/
structure RoundsEnd where
  passed : Bool
  rounds : Nat
  taken : Nat
  deriving DecidableEq, Repr

/-- R156's loop over `left` further rounds after `done` rounds, from `pos`; none where some round found no base in
`tries` draws (R156; log entry 8). -/
def mrLoop (stream : Nat → Word) (n tries : Nat) : Nat → Nat → Nat → Option RoundsEnd
  | 0, done, pos => some ⟨true, done, pos⟩
  | left + 1, done, pos =>
    match pickBase stream n tries pos with
    | none => none
    | some (a, pos') =>
      if mrRound n a then mrLoop stream n tries left (done + 1) pos' else some ⟨false, done + 1, pos'⟩

/-- TRIALDIV Ba (R151). -/
def execTrialdiv (a : RegField) (s : State) : Result :=
  withSource s a fun n =>
    if n < 0 then fail s .operandRange
    else finish ({ s with mrrounds := 0 }.setResult (decide (classify n.toNat ≠ Verdict.composite))) 0

/-- MRROUND Ba, Bb (R153). -/
def execMrround (a b : RegField) (s : State) : Result :=
  withSource s a fun n =>
    withSource s b fun base =>
      if n < 3 ∨ n % 2 = 0 then fail s .operandRange
      else finish ({ s with mrrounds := 1 }.setResult (mrRound n.toNat (base % n).toNat)) 0

/-- The engine's turn ends with the command still running: BUSY stays 1, and the next turn may try longer (R156
"keeps the command busy"; log entry 8). -/
def stillRunning (s : State) : Result := .next { s with patience := s.patience + 1 }

/-- MRTEST's Miller-Rabin part for an undecided candidate (R156). -/
def mrtestRounds (n : Nat) (random : Bool) (s : State) : Result :=
  match mrLoop s.streamWord n s.patience (mrRounds s.cert.toNat (bitlen n) random) 0 0 with
  | none => stillRunning s
  | some e =>
    let t := { s with mrrounds := BitVec.ofNat 32 e.rounds }.takeWords e.taken
    finish (if e.passed then t.setResult true else t) e.taken

/-- MRTEST Ba [, RANDOM] (R156). -/
def execMrtest (a : RegField) (random : Bool) (s : State) : Result :=
  withSource s a fun n =>
    if n < 0 then fail s .operandRange
    else
      match classify n.toNat with
      | .composite => finish { s with mrrounds := 0 } 0
      | .prime => finish ({ s with mrrounds := 0 }.setResult true) 0
      | .undecided => mrtestRounds n.toNat random s

end Sys2Proof.Machine
end

