-- ==== Sys2Proof/Machine/Squaring.lean ====
section
/-! DEFINITION. WFCHK and SQRLOOP (spec/44_squaring.md). -/

namespace Sys2Proof.Machine

/-- The valid workfactors V: `2^k` for 1 ≤ k ≤ 31 and `3·2^k` for 0 ≤ k ≤ 30 (R180). -/
def validWorkfactors : List Nat :=
  (List.range 31).map (fun k => 2 ^ (k + 1)) ++ (List.range 31).map fun k => 3 * 2 ^ k

/-- `w in V` (R180). -/
def isWorkfactor (w : Word) : Bool := validWorkfactors.contains w.toNat

/-- `|a − b|`. -/
def distance (a b : Nat) : Nat := (a - b) + (b - a)

/-- R181's choice between two candidates for `w`: the nearer, or the smaller of two equally near. -/
def nearer (w best v : Nat) : Nat :=
  if distance w v < distance w best ∨ (distance w v = distance w best ∧ v < best) then v else best

/-- `nearest(w)`: the v in V minimising `|w − v|`, the smaller on a tie (R181). -/
def nearestWorkfactor (w : Word) : Word :=
  BitVec.ofNat 32 (validWorkfactors.foldl (nearer w.toNat) 2)

/-- WFCHK (R182). -/
def execWfchk (s : State) : Result :=
  finish ({ s with wfsug := nearestWorkfactor s.wf }.setResult (isWorkfactor s.wf)) 0

/-- `repeat n times: y <- (y · y) mod m` (R183). -/
def squareTimes (m : Int) : Nat → Int → Int
  | 0, y => y
  | n + 1, y => squareTimes m n (y * y % m)

/-- The number of squarings, WF + 1, "held in 33 bits" (R183). -/
def squaringCount (s : State) : Nat := s.wf.toNat + 1

/-- The strict minimum modulus length in bits (R184, 00_scope.md R6). -/
def strictModulusBits : Nat := 1273

/-- SQRLOOP's effect once its checks have passed (R183). -/
def squareLoop (d : RegField) (x m : Int) (s : State) : Result :=
  finish
    (((s.writeReg d (squareTimes m (squaringCount s) x).toNat).reportPath (m == 1) m.toNat).setWinsz 0) 0

/-- SQRLOOP Bd, Ba, Bc [, STRICT] (R183, R184). -/
def execSqrloop (d a c : RegField) (strict : Bool) (s : State) : Result :=
  withSource s a fun x =>
    withSource s c fun m =>
      if m ≤ 0 then fail s .invalidModulus
      else if strict && decide (bitlen m.toNat < strictModulusBits) then fail s .modulusTooSmall
      else if strict && !isWorkfactor s.wf then
        fail { s with wfsug := nearestWorkfactor s.wf } .invalidWorkfactor
      else squareLoop d x m s

end Sys2Proof.Machine
end

