-- ==== Sys2Proof/Machine/Dispatch.lean ====
section
/-! DEFINITION. One arm per command (spec/opcode_table.json): the completion step of a decoded command. -/

namespace Sys2Proof.Machine

def exec (i : Instr) (s : State) : Host.Outcome State Fault Refusal :=
  match i with
  | .nop => Sys2Proof.Machine.execNop s
  | .clr d => Sys2Proof.Machine.execClr d s
  | .modred d a c => Sys2Proof.Machine.execModred d a c s
  | .mconst c => Sys2Proof.Machine.execMconst c s
  | .modsqr d a c => Sys2Proof.Machine.execModsqr d a c s
  | .sqrloop d a c strict => Sys2Proof.Machine.execSqrloop d a c strict s
  | .modpow d a b c => Sys2Proof.Machine.execModpow d a b c s
  | .trialdiv a => Sys2Proof.Machine.execTrialdiv a s
  | .mrround a b => Sys2Proof.Machine.execMrround a b s
  | .mrtest a random => Sys2Proof.Machine.execMrtest a random s
  | .randcand d blum => Sys2Proof.Machine.execRandcand d blum s
  | .wfchk => Sys2Proof.Machine.execWfchk s

end Sys2Proof.Machine
end

