-- ==== Sys2Proof/Machine/Step.lean ====
section
/-! DEFINITION. One step: one event of the interleaving of host accesses, resets and completion steps
(spec/20_memory.md R73; spec/10_state.md R42; log entry 5). -/

namespace Sys2Proof.Machine

/-- The engine's turn: it completes its pending command, decoding it first (10_state.md R42, 30_encoding.md R96);
with none pending it is idle and keeps all its state (60_exceptions.md R219). -/
def engineTurn (s : State) : Host.Outcome State Fault Refusal :=
  match s.pending with
  | none => .next s
  | some w =>
    match decode w with
    | .error e => fail s (decodeErrCode e)
    | .ok i => exec i s

/-- The next event happens; with no event left every turn is the engine's. -/
def step (s : State) : Host.Outcome State Fault Refusal :=
  match s.inputs with
  | [] => engineTurn s
  | .engine :: rest => engineTurn { s with inputs := rest }
  | .bus a :: rest => .next ({ s with inputs := rest }.access a)
  | .hardReset :: rest => .next { s with inputs := rest }.hardReset

/-- The command word `w` accepted, and the engine's turn next (log entry 13). -/
def State.withFetchWord (s : State) (nbits w : Nat) : State :=
  { s.accept (BitVec.ofNat 32 (w % 2 ^ nbits)) with inputs := .engine :: s.inputs }

end Sys2Proof.Machine
end

