-- ==== Sys2Proof/Machine/Datapath.lean ====
section
/-! DEFINITION. The datapath algorithms the spec describes as informative: Barrett reduction, Montgomery reduction,
sliding-window exponentiation and batched trial division (spec/41_modexp.md R123, R126, R127; spec/42_primality.md
R157). The commands are defined by their results (R120-R130, R150); these functions are stated to reach the same
results. Log entry 17. -/

namespace Sys2Proof.Machine

/-- b = 2^32 (R123, R126). -/
def limb : Nat := 2 ^ 32

/-- k = ceil(bitlen(m)/32) (R123, R126). -/
def limbsOf (m : Nat) : Nat := wordsOf (bitlen m)

/-! ### Barrett reduction (R123) -/

/-- `mu <- b^(2k) div m`, precomputed once per modulus. -/
def barrettMu (m : Nat) : Nat := limb ^ (2 * limbsOf m) / m

/-- `while r >= m: r <- r − m`, at most `n` times. -/
def subtractUpTo (m : Nat) : Nat → Nat → Nat
  | 0, r => r
  | n + 1, r => if r ≥ m then subtractUpTo m n (r - m) else r

/-- One Barrett step for `0 ≤ x < b^(2k)`. -/
def barrettStep (m x : Nat) : Nat :=
  let k := limbsOf m
  let q := x / limb ^ (k - 1) * barrettMu m / limb ^ (k + 1)
  let r : Int := (x % limb ^ (k + 1) : Nat) - (q * m % limb ^ (k + 1) : Nat)
  subtractUpTo m 2 (if r < 0 then r + (limb ^ (k + 1) : Nat) else r).toNat

/-- The `n` limbs of `x`, most significant first. -/
def limbsFromTop (n x : Nat) : List Nat := (List.range n).map fun j => x / limb ^ (n - 1 - j) % limb

/-- A larger `x`, by applying the step "to successive top portions", one limb more each time. -/
def barrettLong (m x : Nat) : Nat :=
  (limbsFromTop (limbsOf x) x).foldl (fun r w => barrettStep m (r * limb + w)) 0

/-- "a negative x is reduced as |x| and then replaced by m − r when r ≠ 0". -/
def barrettMod (x : Int) (m : Nat) : Nat :=
  let r := if x.natAbs < limb ^ (2 * limbsOf m) then barrettStep m x.natAbs else barrettLong m x.natAbs
  if x < 0 ∧ r ≠ 0 then m - r else r

/-! ### Montgomery reduction (R126) -/

/-- REDC's loop: `n` rounds from index `i`. -/
def redcRounds (m : Nat) : Nat → Nat → Nat → Nat
  | 0, _, t => t
  | n + 1, i, t =>
    redcRounds m n (i + 1)
      (t + (t / limb ^ i % limb) * (montgomeryConstant m).toNat % limb * m * limb ^ i)

/-- `REDC(T)` for `0 ≤ T < m·R`. -/
def redc (m t : Nat) : Nat :=
  let u := redcRounds m (limbsOf m) 0 t / limb ^ limbsOf m
  if u ≥ m then u - m else u

/-- `MontMul(A, B) = REDC(A · B)`. -/
def montMul (m a b : Nat) : Nat := redc m (a * b)

/-- "Operands enter the Montgomery domain as a·R mod m". -/
def toMontgomery (m a : Nat) : Nat := a * limb ^ limbsOf m % m

/-- A modular product on the Montgomery path: in, multiply, "and leave it by REDC". -/
def montgomeryProduct (m a b : Nat) : Nat := redc m (montMul m (toMontgomery m a) (toMontgomery m b))

/-! ### Sliding-window exponentiation (R127) -/

/-- The odd powers g^1, g^3, … modulo m, `n` of them from `p`. -/
def oddPowersFrom (m g : Nat) : Nat → Nat → List Nat
  | 0, _ => []
  | n + 1, p => p :: oddPowersFrom m g n (p * (g * g % m) % m)

/-- The bits of `e`, most significant first. -/
def bitsFromTop (e : Nat) : List Bool := (List.range (bitlen e)).map fun j => e.testBit (bitlen e - 1 - j)

/-- "the longest run of at most w bits ending in a 1". -/
def longestRun (w : Nat) (bits : List Bool) : List Bool := ((bits.take w).reverse.dropWhile fun b => !b).reverse

/-- The number a run spells. -/
def runValue (bits : List Bool) : Nat := bits.foldl (fun v b => 2 * v + b.toNat) 0

/-- `n` squarings modulo m. -/
def squareRun (m : Nat) : Nat → Nat → Nat
  | 0, y => y
  | n + 1, y => squareRun m n (y * y % m)

/-- The scan: square once on a 0, once per bit of a run and then multiply by the run's power on a 1. -/
def windowScan (m w : Nat) (table : List Nat) : Nat → List Bool → Nat → Nat
  | 0, _, acc => acc
  | _ + 1, [], acc => acc
  | fuel + 1, false :: rest, acc => windowScan m w table fuel rest (acc * acc % m)
  | fuel + 1, true :: rest, acc =>
    let run := longestRun w (true :: rest)
    windowScan m w table fuel ((true :: rest).drop run.length)
      (squareRun m run.length acc * table.getD (runValue run / 2) 0 % m)

/-- `g^e mod m` by windows of the width R125 gives. -/
def slidingWindowPow (g e m : Nat) : Nat :=
  let w := (windowWidth (bitlen e)).toNat
  windowScan m w (oddPowersFrom m (g % m) (2 ^ (w - 1)) (g % m)) (bitlen e) (bitsFromTop e) (1 % m)

/-! ### Batched trial division (R157) -/

/-- Reduces `n` once modulo the batch's product, then tests the remainder against each prime of the batch. -/
def batchFindsFactor (n : Nat) (batch : List Nat) : Bool := batch.any fun p => n % batch.prod % p == 0

/-- Some prime of some batch divides `n`. -/
def batchesFindFactor (n : Nat) : Bool := trialBatches.any (batchFindsFactor n)

end Sys2Proof.Machine
end

