-- ==== Sys2Proof/Machine/HostScript.lean ====
section
/-! DEFINITION. The assembler syntax of the commands and the host-script forms (spec/30_encoding.md R99, R100).
These belong to the host, not to the engine: `step` does not use them. -/

namespace Sys2Proof.Machine

/-! ### Assembler syntax (R99) -/

/-- A line of assembler: the mnemonic, the register operands (the index of B0..B7) in their written order, and the
trailing keyword. -/
structure AsmLine where
  mnemonic : String
  regs : List RegField
  keyword : Option String
  deriving DecidableEq, Repr

/-- The keyword of a flag, where it is set. -/
def keywordOf (word : String) (b : Bool) : Option String := if b then some word else none

/-- How a command is written: "destination first, then sources in RA, RB order, then the modulus". -/
def asmLine : Instr → AsmLine
  | .nop => ⟨"NOP", [], none⟩
  | .clr d => ⟨"CLR", [d], none⟩
  | .modred d a c => ⟨"MODRED", [d, a, c], none⟩
  | .mconst c => ⟨"MCONST", [c], none⟩
  | .modsqr d a c => ⟨"MODSQR", [d, a, c], none⟩
  | .sqrloop d a c strict => ⟨"SQRLOOP", [d, a, c], keywordOf "STRICT" strict⟩
  | .modpow d a b c => ⟨"MODPOW", [d, a, b, c], none⟩
  | .trialdiv a => ⟨"TRIALDIV", [a], none⟩
  | .mrround a b => ⟨"MRROUND", [a, b], none⟩
  | .mrtest a random => ⟨"MRTEST", [a], keywordOf "RANDOM" random⟩
  | .randcand d blum => ⟨"RANDCAND", [d], keywordOf "BLUM" blum⟩
  | .wfchk => ⟨"WFCHK", [], none⟩

/-- The command a line of assembler stands for. -/
def assemble (l : AsmLine) : Option Instr :=
  match l.mnemonic, l.regs, l.keyword with
  | "NOP", [], none => some .nop
  | "CLR", [d], none => some (.clr d)
  | "MODRED", [d, a, c], none => some (.modred d a c)
  | "MCONST", [c], none => some (.mconst c)
  | "MODSQR", [d, a, c], none => some (.modsqr d a c)
  | "SQRLOOP", [d, a, c], none => some (.sqrloop d a c false)
  | "SQRLOOP", [d, a, c], some "STRICT" => some (.sqrloop d a c true)
  | "MODPOW", [d, a, b, c], none => some (.modpow d a b c)
  | "TRIALDIV", [a], none => some (.trialdiv a)
  | "MRROUND", [a, b], none => some (.mrround a b)
  | "MRTEST", [a], none => some (.mrtest a false)
  | "MRTEST", [a], some "RANDOM" => some (.mrtest a true)
  | "RANDCAND", [d], none => some (.randcand d false)
  | "RANDCAND", [d], some "BLUM" => some (.randcand d true)
  | "WFCHK", [], none => some .wfchk
  | _, _, _ => none

/-! ### Host-script forms (R100) -/

/-- R100's pseudo-instructions. A label is the index of a script line. -/
inductive HostOp where
  | wr (off : Offset) (v : Word)
  | rd (off : Offset)
  | issue (i : Instr)
  | wait
  | ack
  | loadbig (i : RegField) (v : Nat)
  | readbig (i : RegField)
  | setsign (v : Word)
  | setwf (v : Word)
  | setcert (v : Word)
  | setnbits (v : Word)
  | ifbit (k label : Nat)
  | ifnbit (k label : Nat)
  | goto (label : Nat)
  deriving DecidableEq, Repr

/-- A word write. -/
def wrAccess (off : Nat) (v : Word) : Access := .write (BitVec.ofNat 17 off) 0b1111#4 v

/-- A word read. -/
def rdAccess (off : Nat) : Access := .read (BitVec.ofNat 17 off) 0b1111#4

/-- The bus accesses a form expands into, for the forms that are a fixed list of them (R100). -/
def HostOp.accesses (nw : Nat) : HostOp → List Access
  | .wr off v => [wrAccess off.toNat v]
  | .rd off => [rdAccess off.toNat]
  | .issue i => [wrAccess 0x00C (encode i)]
  | .ack => [wrAccess 0x008 0x00000016#32]
  | .loadbig i v =>
    (List.range nw).map fun j => wrAccess (wordOffset nw i.toNat j) (BitVec.ofNat 32 (v >>> (32 * (nw - 1 - j))))
  | .readbig i => (List.range nw).map fun j => rdAccess (wordOffset nw i.toNat j)
  | .setsign v => [wrAccess 0x014 v]
  | .setwf v => [wrAccess 0x018 v]
  | .setcert v => [wrAccess 0x01C v]
  | .setnbits v => [wrAccess 0x020 v]
  | .wait => []
  | .ifbit _ _ => []
  | .ifnbit _ _ => []
  | .goto _ => []

/-- The host's side of a script: its line, `acc`, and the words its last READBIG gave. -/
structure HostState where
  line : Nat
  acc : Word
  words : List Word
  deriving DecidableEq, Repr

/-- Performs accesses in order, noting what each read gave (20_memory.md R73). -/
def performAll : List Access → State → List Word → State × List Word
  | [], s, got => (s, got)
  | .read off strobes :: rest, s, got =>
    performAll rest (s.access (.read off strobes)) (got ++ [(s.access (.read off strobes)).rdata])
  | .write off strobes v :: rest, s, got => performAll rest (s.access (.write off strobes v)) got

/-- One move of host and engine running a script. WAIT polls STATUS and, while BUSY is 1, lets the engine take its
turn after each poll (log entry 16); every other form is the host's alone. Past the last line nothing moves. -/
def scriptStep (script : List HostOp) (h : HostState) (s : State) : HostState × Result :=
  match script[h.line]? with
  | none => (h, .next s)
  | some .wait =>
    let t := s.access (rdAccess 0x008)
    if t.rdata.getLsbD 0 then ({ h with acc := t.rdata }, engineTurn t)
    else ({ h with acc := t.rdata, line := h.line + 1 }, .next t)
  | some (.ifbit k l) => ({ h with line := if h.acc.getLsbD k then l else h.line + 1 }, .next s)
  | some (.ifnbit k l) => ({ h with line := if h.acc.getLsbD k then h.line + 1 else l }, .next s)
  | some (.goto l) => ({ h with line := l }, .next s)
  | some op =>
    let r := performAll (op.accesses s.nw) s []
    ({ line := h.line + 1, acc := r.2.getLastD h.acc, words := r.2 }, .next r.1)

/-- `n` moves, stopping at the first fault. -/
def scriptRun (script : List HostOp) : Nat → HostState → State → HostState × Result
  | 0, h, s => (h, .next s)
  | n + 1, h, s =>
    match scriptStep script h s with
    | (h', .next s') => scriptRun script n h' s'
    | (h', .fault r) => (h', .fault r)
    | (h', .refused r) => (h', .refused r)

end Sys2Proof.Machine
end

