-- ==== Sys2Proof/Safety.lean ====
section
/-! DEFINITION. What a legal state of the engine is, and when a command can run: the terms the statements use. -/

namespace Sys2Proof.Machine

/-- A legal state. Every clause but the first two memory ones is something the spec says a host can rely on. -/
structure Inv (s : State) : Prop where
  /-- 40 ≤ NW ≤ 2048 (00_scope.md R7). -/
  nw_range : 40 ≤ s.nw ∧ s.nw ≤ 2048
  /-- The operand RAM is in canonical form. -/
  mem_canonical : s.mem.wf
  /-- Only operand-RAM offsets are listed (20_memory.md R63). -/
  mem_in_ram : ∀ c ∈ s.mem, 0x10000 ≤ c.1 ∧ c.1 < ramEnd s.nw
  /-- A word is written as a whole (20_memory.md R68; 10_state.md R47). -/
  mem_whole_words : ∀ c ∈ s.mem, ∀ k < 4, ∃ v, (c.1 / 4 * 4 + k, v) ∈ s.mem
  /-- The pending word is CMD while BUSY = 1, and there is none while BUSY = 0 (10_state.md R48). -/
  pending_is_cmd : s.pending = if s.status.busy then some s.cmd else none
  /-- While BUSY = 1, DONE, ERR, RESULT and ERRCODE read 0 (70_reset_and_hazards.md R241). -/
  busy_reads_clear : s.status.busy = true →
    s.status.done = false ∧ s.status.err = false ∧ s.status.result = false ∧ s.errcode = .noError
  /-- "When ERR = 1, ERRCODE holds the cause" (10_state.md R27). -/
  err_has_cause : s.status.err = true → s.errcode ≠ .noError
  /-- "every command that raises an error, leaves it 0" (10_state.md R28). -/
  result_without_error : s.status.result = true → s.errcode = .noError
  /-- MCONST is its reset value or a Montgomery constant, which is odd (10_state.md R36, 41_modexp.md R121). -/
  mconst_odd : s.mconst = 0 ∨ s.mconst.toNat % 2 = 1
  /-- WFSUG is its reset value or a valid workfactor (10_state.md R37). -/
  wfsug_valid : s.wfsug = 0 ∨ isWorkfactor s.wfsug = true
  /-- Widths go up to 7 (41_modexp.md R125). -/
  winsz_range : s.winsz.toNat ≤ 7
  /-- No MRTEST runs more than ⌈(2^32 − 1)/2⌉ rounds (42_primality.md R154). -/
  mrrounds_range : s.mrrounds.toNat ≤ 2 ^ 31

/-- Every word of every source register of the command has been written (10_state.md R47). -/
def State.operandsReady (s : State) (i : Instr) : Bool := i.sources.all fun r => (s.regWords r).isSome

/-! ### What a completion step leaves -/

/-- Completion without error after `cnt` entropy words (10_state.md R42): BUSY 0, DONE 1, RNGCNT, nothing pending;
ERR, OVR and ERRCODE are not written. RESULT is each command's own. -/
structure Completed (s t : State) (cnt : Nat) : Prop where
  busy : t.status.busy = false
  done : t.status.done = true
  err : t.status.err = s.status.err
  ovr : t.status.ovr = s.status.ovr
  errcode : t.errcode = s.errcode
  rngcnt : t.rngcnt.toNat = min cnt 0xFFFFFFFF
  pending : t.pending = none

/-- R124: what LASTRED and MCONST report of a modular command with modulus `m`. -/
structure PathReported (s t : State) (isTrivial : Prop) (m : Int) : Prop where
  trivially : isTrivial → t.lastred = .noReduction ∧ t.mconst = s.mconst
  odd : ¬isTrivial → m % 2 = 1 → t.lastred = .montgomery ∧ m * (t.mconst.toNat : Int) % 2 ^ 32 = 0xFFFFFFFF
  even : ¬isTrivial → m % 2 = 0 → t.lastred = .barrett ∧ t.mconst = s.mconst

/-- The state fields that belong to the host and the platform: no command writes them. -/
structure HostSideKept (s t : State) : Prop where
  nw : t.nw = s.nw
  ctrl : t.ctrl = s.ctrl
  ovr : t.status.ovr = s.status.ovr
  cmd : t.cmd = s.cmd
  wf : t.wf = s.wf
  cert : t.cert = s.cert
  nbits : t.nbits = s.nbits
  rdata : t.rdata = s.rdata
  resp : t.resp = s.resp
  inputs : t.inputs = s.inputs
  draws : t.draws = s.draws

/-- The offset lies in the block of the command's destination: the bytes a command may store to (10_state.md R20). -/
def inDestination (nw : Nat) (i : Instr) (a : Nat) : Bool :=
  match i.destination with
  | none => false
  | some d => decide (wordOffset nw d.toNat 0 ≤ a) && decide (a < wordOffset nw d.toNat 0 + 4 * nw)

/-! ### MRTEST's loops as the spec writes them, without the model's `patience` (42_primality.md R155, R156) -/

/-- `pick_base(n)`'s `repeat … until`: from `pos` it ends with base `a`, the next word then being `pos'` (R155). -/
inductive PicksBase (stream : Nat → Word) (n : Nat) : Nat → Nat → Nat → Prop where
  | accept (pos : Nat) (h : 2 ≤ drawBits stream pos (bitlen n) ∧ drawBits stream pos (bitlen n) ≤ n - 2) :
      PicksBase stream n pos (drawBits stream pos (bitlen n)) (pos + wordsOf (bitlen n))
  | reject (pos a pos' : Nat)
      (h : ¬(2 ≤ drawBits stream pos (bitlen n) ∧ drawBits stream pos (bitlen n) ≤ n - 2))
      (next : PicksBase stream n (pos + wordsOf (bitlen n)) a pos') : PicksBase stream n pos a pos'

/-- R156's `for` loop with `left` rounds to go after `done`: it ends as `e` says. -/
inductive RunsRounds (stream : Nat → Word) (n : Nat) : Nat → Nat → Nat → RoundsEnd → Prop where
  | finished (done pos : Nat) : RunsRounds stream n 0 done pos ⟨true, done, pos⟩
  | failed (left done pos a pos' : Nat) (base : PicksBase stream n pos a pos') (h : mrRound n a = false) :
      RunsRounds stream n (left + 1) done pos ⟨false, done + 1, pos'⟩
  | passed (left done pos a pos' : Nat) (e : RoundsEnd) (base : PicksBase stream n pos a pos')
      (h : mrRound n a = true) (next : RunsRounds stream n left (done + 1) pos' e) :
      RunsRounds stream n (left + 1) done pos e

/-- n is a strong probable prime to base a, for odd `n ≥ 3` (R152, in the usual closed form). -/
def StrongProbablePrime (n a : Nat) : Prop :=
  ∃ s t, n - 1 = 2 ^ s * t ∧ t % 2 = 1 ∧ (a ^ t % n = 1 ∨ ∃ r < s, a ^ (2 ^ r * t) % n = n - 1)

/-! ### The encoding, word by word (30_encoding.md R92, R93, R96), written apart from the decoder -/

/-- R92's table by opcode: which of RD, RA, RB, RC the opcode uses, and its defined FLAGS bits (R93). -/
def r92Row (opc : BitVec 8) : Bool × Bool × Bool × Bool × BitVec 8 :=
  if opc = 0x01 then (true, false, false, false, 0)
  else if opc = 0x02 ∨ opc = 0x04 then (true, true, false, true, 0)
  else if opc = 0x03 then (false, false, false, true, 0)
  else if opc = 0x05 then (true, true, false, true, 1)
  else if opc = 0x06 then (true, true, true, true, 0)
  else if opc = 0x07 then (false, true, false, false, 0)
  else if opc = 0x08 then (false, true, true, false, 0)
  else if opc = 0x09 then (false, true, false, false, 1)
  else if opc = 0x0A then (true, false, false, false, 1)
  else (false, false, false, false, 0)

/-- R96 of one register field: at most 7 where the opcode uses it, 0 where it does not. -/
abbrev r96Field (used : Bool) (f : RegField) : Prop := f.toNat ≤ if used then 7 else 0

/-- R96's conditions on the fields of a word with a defined opcode. -/
abbrev R96Legal (w : Word) : Prop :=
  r96Field (r92Row (opcField w)).1 (rdField w) ∧ r96Field (r92Row (opcField w)).2.1 (raField w) ∧
    r96Field (r92Row (opcField w)).2.2.1 (rbField w) ∧ r96Field (r92Row (opcField w)).2.2.2.1 (rcField w) ∧
    flagsField w &&& ~~~(r92Row (opcField w)).2.2.2.2 = 0

/-- The words with opcode `opc` that match the mask and pattern stand for the command `f` reads from them; every
other word with that opcode is an illegal encoding. -/
def EncodedAs (opc : BitVec 8) (mask pattern : Word) (f : Word → Instr) : Prop :=
  ∀ w : Word, opcField w = opc →
    (w &&& mask = pattern → decode w = .ok (f w)) ∧ (w &&& mask ≠ pattern → decode w = .error .illegalEncoding)

/-! ### Running -/

/-- The step goes on: it does not stop with UninitOperand. -/
def SafeStep (s : State) : Prop := ∃ t, step s = .next t

end Sys2Proof.Machine
end

