-- ==== Sys2Proof/Certificates/Slice0/Obligations.lean ====
section
/-! DEFINITION. The statements for the provers. Each docstring names the rules of spec/ it formalises, or what it is
derived from. -/

open Sys2Proof Sys2Proof.Machine

/-! ### Encoding -/

/-- 30_encoding.md R99's two worked examples and one word of each other command, written out from R95's patterns. -/
def Obligations.SampleWordsDecodeAsTheSpecSays : Prop :=
  decode 0x06012300#32 = .ok (.modpow 0 1 2 3) ∧ decode 0x05450601#32 = .ok (.sqrloop 4 5 6 true) ∧
    decode 0x00000000#32 = .ok .nop ∧ decode 0x01200000#32 = .ok (.clr 2) ∧
    decode 0x02010000#32 = .ok (.modred 0 1 0) ∧ decode 0x03000500#32 = .ok (.mconst 5) ∧
    decode 0x04220300#32 = .ok (.modsqr 2 2 3) ∧ decode 0x07030000#32 = .ok (.trialdiv 3) ∧
    decode 0x08034000#32 = .ok (.mrround 3 4) ∧ decode 0x09030001#32 = .ok (.mrtest 3 true) ∧
    decode 0x0A100001#32 = .ok (.randcand 1 true) ∧ decode 0x0B000000#32 = .ok .wfchk

/-- Decoding the encoding of a well-formed command gives it back, every operand at every value the encoding admits
(30_encoding.md R92, R95, R96). -/
def Obligations.DecodeOfEncodeIsTheCommand : Prop :=
  ∀ i : Instr, i.wellFormed = true → decode (encode i) = .ok i

/-- A word that decodes is the encoding of what it decodes to, and that command is well-formed: no bit of a legal
word is ignored (30_encoding.md R92, R95, R96, R98). -/
def Obligations.EncodeOfDecodeIsTheWord : Prop :=
  ∀ (w : Word) (i : Instr), decode w = .ok i → encode i = w ∧ i.wellFormed = true

/-- R96, for every word: a reserved opcode raises ILLEGAL_OPCODE before anything else is looked at; a defined opcode
with a register field above 7, a nonzero unused field or a reserved FLAGS bit raises ILLEGAL_ENCODING; every other
word decodes, and it is the word of exactly one row of R95's map, whose mnemonic it carries. The engine's turn raises
the error. -/
def Obligations.DecodingChecksInOrder : Prop :=
  ∀ w : Word,
    (opcField w > 0x0B → decode w = .error .illegalOpcode) ∧
      (opcField w ≤ 0x0B → ¬R96Legal w → decode w = .error .illegalEncoding) ∧
      (opcField w ≤ 0x0B → R96Legal w →
        ∃ i, decode w = .ok i ∧ opcField (encode i) = opcField w ∧
          (opcodeRows.filter fun r => r.selects w).map OpcodeRow.mnemonic = [i.mnemonic]) ∧
      ((∃ i, decode w = .ok i) ↔ ∃ r ∈ opcodeRows, r.selects w = true) ∧
      ∀ (s : State) (e : DecodeError), s.pending = some w → decode w = .error e →
        engineTurn s = .next (s.raiseError (decodeErrCode e))

/-- R99: the assembler line of a command assembles to that command. -/
def Obligations.AssemblerLineStandsForTheCommand : Prop := ∀ i : Instr, assemble (asmLine i) = some i

/-! ### Steps and the life of a command -/

/-- A step runs the decoded command: when the engine's turn is next (or nothing else is left to happen) and the
pending word decodes to `i`, the step is `exec i`, on the state with that turn taken off the inputs. A word placed by
`withFetchWord` is run by the very next step (10_state.md R42; the interleaving is log entry 5's). -/
def Obligations.StepRunsThePendingCommand : Prop :=
  (∀ (s : State) (w : Word) (i : Instr), s.pending = some w → decode w = .ok i →
    (∀ rest, s.inputs = .engine :: rest → step s = exec i { s with inputs := rest }) ∧
      (s.inputs = [] → step s = exec i s)) ∧
    ∀ (s : State) (w : Nat) (i : Instr), decodeTableWord 32 w = some i →
      step (s.withFetchWord 32 w) = exec i (s.accept (BitVec.ofNat 32 w))

/-- The other events: a host access and the reset input each take one step; with nothing pending the engine is idle
and keeps all its state (20_memory.md R73, 60_exceptions.md R219). -/
def Obligations.OtherEventsTakeOneStepEach : Prop :=
  ∀ (s : State) (rest : List Input),
    (∀ a, s.inputs = .bus a :: rest → step s = .next ({ s with inputs := rest }.access a)) ∧
      (s.inputs = .hardReset :: rest → step s = .next { s with inputs := rest }.hardReset) ∧
      (s.pending = none → (s.inputs = [] → step s = .next s) ∧
        (s.inputs = .engine :: rest → step s = .next { s with inputs := rest }))

/-- R41 and R242: a word write of `v` to CMD while BUSY = 0 accepts it, whatever `v` encodes: CMD, the pending
command, BUSY, DONE, ERR, RESULT and ERRCODE change as R41 says and nothing else does (the bus response apart). A
STATUS read that follows sees BUSY = 1 and DONE = 0, and a write to CMD or to an input of the command (SIGN, WF, CERT,
NBITS, the operand RAM) only sets OVR. -/
def Obligations.CmdWriteWhileIdleIsAccepted : Prop :=
  ∀ (s : State) (v : Word), s.status.busy = false →
    let t := s.access (.write 0x00C#17 0b1111#4 v)
    t = { s with
          cmd := v
          pending := some v
          status := ⟨true, false, false, false, s.status.ovr⟩
          errcode := .noError
          resp := .okay } ∧
      (t.access (.read 0x008#17 0b1111#4)).rdata.getLsbD 0 = true ∧
      (t.access (.read 0x008#17 0b1111#4)).rdata.getLsbD 1 = false ∧
      ∀ (off : Offset) (v' : Word), off.toNat % 4 = 0 →
        off ∈ [0x00C#17, 0x014#17, 0x018#17, 0x01C#17, 0x020#17] ∨
          (0x10000 ≤ off.toNat ∧ off.toNat < 0x10000 + 32 * s.nw) →
        t.access (.write off 0b1111#4 v') = { t with status := { t.status with ovr := true }, resp := .okay }

/-- R97 and R203: the engine's turn on a pending word that does not decode completes it with the error R96 names:
ERRCODE, ERR, DONE, BUSY, RNGCNT and the pending command change, nothing else does. -/
def Obligations.IllegalWordCompletesWithItsError : Prop :=
  ∀ (s : State) (w : Word), s.pending = some w → (∀ i, decode w ≠ .ok i) →
    ∃ t, engineTurn s = .next t ∧
      t = { s with
            errcode := if opcField w > 0x0B then .illegalOpcode else .illegalEncoding
            rngcnt := 0
            status := ⟨false, true, true, s.status.result, s.status.ovr⟩
            pending := none }

/-- R203, R204: whenever the engine's turn raises an error, of decoding or of a command, the state is as at
acceptance but for ERRCODE, RNGCNT = 0, ERR, DONE, BUSY and the pending command, and WFSUG only for
INVALID_WORKFACTOR. No big register, SIGN bit, MCONST, LASTRED, WINSZ or MRROUNDS is written and RESULT is left as it
was. -/
def Obligations.ErrorsWriteNothingElse : Prop :=
  ∀ s t : State, s.status.err = false → engineTurn s = .next t → t.status.err = true →
    t.errcode ≠ .noError ∧ (t.errcode ≠ .invalidWorkfactor → t.wfsug = s.wfsug) ∧
      t = { s with
            errcode := t.errcode
            wfsug := t.wfsug
            rngcnt := 0
            status := ⟨false, true, true, s.status.result, s.status.ovr⟩
            pending := none }

/-- R47, R208: a command faults with UninitOperand exactly when some word of a register it reads was never written;
it answers a next state otherwise. -/
def Obligations.UnwrittenSourceIsTheOnlyFault : Prop :=
  ∀ (i : Instr) (s : State),
    (s.operandsReady i = false → exec i s = .fault .uninitOperand) ∧
      (s.operandsReady i = true → ∃ t, exec i s = .next t)

/-! ### The bus -/

/-- R70's first branch and the CSR table of 10_state.md section 2: an aligned word read of each of the sixteen CSRs
answers OKAY with the register, reserved fields reading 0. ERRCODE reads the code that R200 gives each error and
LASTRED the number that R43 gives each reduction, written out here. -/
def Obligations.CsrReadsFollowTheMap : Prop :=
  ∀ s : State,
    let rd (off : Offset) := ((s.access (.read off 0b1111#4)).resp, (s.access (.read off 0b1111#4)).rdata.toNat)
    let bit (b : Bool) := if b then 1 else 0
    rd 0x000#17 = (.okay, 0x4D4B5701) ∧
      rd 0x004#17 = (.okay, 2 * bit s.ctrl.doneie + 4 * bit s.ctrl.errie) ∧
      rd 0x008#17 = (.okay, bit s.status.busy + 2 * bit s.status.done + 4 * bit s.status.err +
        8 * bit s.status.result + 16 * bit s.status.ovr) ∧
      rd 0x00C#17 = (.okay, s.cmd.toNat) ∧
      rd 0x010#17 = (.okay,
        match s.errcode with
        | .noError => 0
        | .illegalOpcode => 1
        | .illegalEncoding => 2
        | .invalidModulus => 3
        | .divByZero => 4
        | .negExponent => 5
        | .evenModulus => 6
        | .operandRange => 7
        | .invalidWorkfactor => 8
        | .modulusTooSmall => 9
        | .invalidBitlen => 10) ∧
      rd 0x014#17 = (.okay, s.sign.toNat) ∧ rd 0x018#17 = (.okay, s.wf.toNat) ∧
      rd 0x01C#17 = (.okay, s.cert.toNat) ∧ rd 0x020#17 = (.okay, s.nbits.toNat) ∧
      rd 0x024#17 = (.okay, s.mconst.toNat) ∧ rd 0x028#17 = (.okay, s.wfsug.toNat) ∧
      rd 0x02C#17 = (.okay, s.mrrounds.toNat) ∧
      rd 0x030#17 = (.okay,
        match s.lastred with
        | .noReduction => 0
        | .montgomery => 1
        | .barrett => 2) ∧
      rd 0x034#17 = (.okay, s.winsz.toNat) ∧ rd 0x038#17 = (.okay, s.nw % 2 ^ 16 + 8 * 2 ^ 16) ∧
      rd 0x03C#17 = (.okay, s.rngcnt.toNat)

/-- R67: a misaligned or narrow access is not performed: SLVERR, a read gives 0, and nothing else changes. -/
def Obligations.MisalignedOrNarrowAccessIsRefused : Prop :=
  ∀ (s : State) (off : Offset) (strobes : BitVec 4) (v : Word), off.toNat % 4 ≠ 0 ∨ strobes ≠ 0b1111#4 →
    s.access (.read off strobes) = { s with rdata := 0, resp := .slverr } ∧
      s.access (.write off strobes v) = { s with resp := .slverr }

/-- R62, R63, R71: at a reserved offset a word read gives 0; a word write there, or to a read-only CSR, is ignored;
all are OKAY and OVR is not set. -/
def Obligations.ReservedAndReadOnlyOffsetsIgnoreWrites : Prop :=
  ∀ (s : State) (off : Offset) (v : Word),
    (off.toNat % 4 = 0 → 0x40 ≤ off.toNat → off.toNat < 0x10000 ∨ 0x10000 + 32 * s.nw ≤ off.toNat →
      s.access (.read off 0b1111#4) = { s with rdata := 0, resp := .okay } ∧
        s.access (.write off 0b1111#4 v) = { s with resp := .okay }) ∧
      (off ∈ [0x000#17, 0x010#17, 0x024#17, 0x028#17, 0x02C#17, 0x030#17, 0x034#17, 0x038#17, 0x03C#17] →
        s.access (.write off 0b1111#4 v) = { s with resp := .okay })

/-- R69: a read has no side effect: only the answer (and the model's count of drawn values) changes. -/
def Obligations.ReadsHaveNoSideEffects : Prop :=
  ∀ (s : State) (off : Offset) (strobes : BitVec 4),
    let t := s.access (.read off strobes)
    t = { s with rdata := t.rdata, resp := t.resp, draws := t.draws }

/-- R29, R71, R240: while BUSY = 1 a word write to CMD, SIGN, WF, CERT, NBITS or the operand RAM is dropped and sets
OVR, and nothing else changes. -/
def Obligations.GuardedWritesWhileBusyAreDropped : Prop :=
  ∀ (s : State) (off : Offset) (v : Word), s.status.busy = true → off.toNat % 4 = 0 →
    off ∈ [0x00C#17, 0x014#17, 0x018#17, 0x01C#17, 0x020#17] ∨
      (0x10000 ≤ off.toNat ∧ off.toNat < 0x10000 + 32 * s.nw) →
    s.access (.write off 0b1111#4 v) =
      { s with status := { s.status with ovr := true }, resp := .okay }

/-- R32-R35: while BUSY = 0 a word write to SIGN, WF, CERT or NBITS stores it (SIGN keeps bits 7:0). -/
def Obligations.ScalarWritesWhileIdleAreStored : Prop :=
  ∀ (s : State) (v : Word), s.status.busy = false →
    s.access (.write 0x014#17 0b1111#4 v) = { s with sign := v.setWidth 8, resp := .okay } ∧
      s.access (.write 0x018#17 0b1111#4 v) = { s with wf := v, resp := .okay } ∧
      s.access (.write 0x01C#17 0b1111#4 v) = { s with cert := v, resp := .okay } ∧
      s.access (.write 0x020#17 0b1111#4 v) = { s with nbits := v, resp := .okay }

/-- R26, R27, R29: a word write to STATUS, busy or not, clears DONE, ERR and OVR where it has a 1 in bits 1, 2 and 4
and changes nothing else. -/
def Obligations.StatusWriteOneClears : Prop :=
  ∀ (s : State) (v : Word),
    s.access (.write 0x008#17 0b1111#4 v) =
      { s with
        status :=
          ⟨s.status.busy, s.status.done && !v.getLsbD 1, s.status.err && !v.getLsbD 2, s.status.result,
            s.status.ovr && !v.getLsbD 4⟩
        resp := .okay }

/-- R70, R71, R68: while BUSY = 0 a word written to the operand RAM is what a later read of that offset gives; every
other aligned word reads as before, every byte outside the word is as before, and no register changes. -/
def Obligations.RamReadGivesTheLastWrite : Prop :=
  ∀ (s : State) (off : Offset) (v : Word), s.status.busy = false → off.toNat % 4 = 0 →
    0x10000 ≤ off.toNat → off.toNat < 0x10000 + 32 * s.nw →
    let t := s.access (.write off 0b1111#4 v)
    (t.access (.read off 0b1111#4)).rdata = v ∧
      (∀ a : Nat, a % 4 = 0 → a ≠ off.toNat → t.mem.loadWord a = s.mem.loadWord a) ∧
      (∀ a : Nat, a < off.toNat ∨ off.toNat + 4 ≤ a → t.mem.readByte a = s.mem.readByte a) ∧
      t = { s with mem := t.mem, resp := .okay }

/-- R75 and 93 rows 2 and 3: a read of the operand RAM while BUSY = 1, or of a word never written, gives a free value
(the model's, log entry 7), and changes no register, no memory and no pending command. -/
def Obligations.BusyOrUnwrittenRamReadsAreFree : Prop :=
  ∀ (s : State) (off : Offset), off.toNat % 4 = 0 → 0x10000 ≤ off.toNat → off.toNat < 0x10000 + 32 * s.nw →
    s.status.busy = true ∨ s.mem.loadWord off.toNat = none →
    s.access (.read off 0b1111#4) =
      { s with rdata := Config.freeWord s.draws, resp := .okay, draws := s.draws + 1 }

/-- R65, R66: a big-endian byte string, left-padded with zeros to a register image, makes the magnitude that is the
string's integer, and the image gives the same bytes back. -/
def Obligations.ByteImageIsTheBigEndianInteger : Prop :=
  ∀ (nw : Nat) (bs : List Byte), bs.length ≤ 4 * nw →
    let image := List.replicate (4 * nw - bs.length) 0#8 ++ bs
    (bytesToWords image).length = nw ∧ (bytesToWords image).flatMap wordBytes = image ∧
      magnitude (bytesToWords image) = bs.foldl (fun acc b => acc * 256 + b.toNat) 0

/-- R21: the magnitude of a big register is the sum of W[j]·2^(32·(NW−1−j)), word 0 most significant, so it is below
2^(32·NW); the register's value is 0 if the magnitude is 0, its negative if SIGN bit i is 1, itself otherwise. -/
def Obligations.ValueOfARegister : Prop :=
  ∀ (s : State) (i : RegField) (ws : List Word), s.regWords i = some ws →
    let mag := ((List.range s.nw).map fun j => (ws.getD j 0).toNat * 2 ^ (32 * (s.nw - 1 - j))).sum
    ws.length = s.nw ∧ magnitude ws = mag ∧ mag < 2 ^ (32 * s.nw) ∧
      (∀ j < s.nw, s.mem.loadWord (0x10000 + 4 * (i.toNat * s.nw + j)) = some (ws.getD j 0)) ∧
      (mag = 0 → s.val? i = some 0) ∧
      (mag ≠ 0 → s.signBit i = true → s.val? i = some (-(mag : Int))) ∧
      (mag ≠ 0 → s.signBit i = false → s.val? i = some (mag : Int))

/-! ### Reset and interrupts -/

/-- R230, R231: State.reset has every CSR at its reset value, the engine idle, no word of operand RAM written, irq 0.
(NW = 1024 is the model's choice of the spec's default, log entry 1; the empty input list and the stream are log
entries 5 and 6.) -/
def Obligations.ResetValues : Prop :=
  let s := State.reset
  s.ctrl.word = 0 ∧ s.status.word = 0 ∧ s.cmd = 0 ∧ s.errcode = .noError ∧ s.sign = 0 ∧ s.wf = 0 ∧ s.cert = 0 ∧
    s.nbits = 0 ∧ s.mconst = 0 ∧ s.wfsug = 0 ∧ s.mrrounds = 0 ∧ s.lastred = .noReduction ∧ s.winsz = 0 ∧
    s.rngcnt = 0 ∧ s.pending = none ∧ s.streamPos = 0 ∧ s.irq = false ∧ s.nw = 1024 ∧
    (∀ i : RegField, s.regWords i = none) ∧ ∀ a, s.mem.readByte a = none

/-- R230, R231: the reset input, at any time, puts every CSR at its reset value, leaves every operand-RAM word
unwritten, so that a command that reads a big register faults, discards the pending command and lowers irq; ID and
CFG read as before. -/
def Obligations.HardResetClearsRegistersAndRam : Prop :=
  ∀ s : State,
    let t := s.hardReset
    t.ctrl.word = 0 ∧ t.status.word = 0 ∧ t.cmd = 0 ∧ t.errcode = .noError ∧ t.sign = 0 ∧ t.wf = 0 ∧ t.cert = 0 ∧
      t.nbits = 0 ∧ t.mconst = 0 ∧ t.wfsug = 0 ∧ t.mrrounds = 0 ∧ t.lastred = .noReduction ∧ t.winsz = 0 ∧
      t.rngcnt = 0 ∧ t.pending = none ∧ t.irq = false ∧ t.readCsr 0 = 0x4D4B5701#32 ∧
      t.readCsr 14 = s.readCsr 14 ∧ (∀ a, t.mem.readByte a = none) ∧
      (0 < s.nw → (∀ r : RegField, t.regWords r = none) ∧
        ∀ i : Instr, i.sources ≠ [] → exec i t = .fault .uninitOperand)

/-- R232, R233: a word write to CTRL with bit 0 = 1, busy or not, puts every CSR but SIGN at its reset value (bits 1
and 2 of the write are discarded), nothing is pending and irq is low. The operand RAM and SIGN stay, except that an
abandoned command's destination has its words unwritten and its SIGN bit free; the entropy stream is not rewound, and
moves on only past words an abandoned command took. With bit 0 = 0 the write only stores DONEIE and ERRIE (R24). -/
def Obligations.SoftResetKeepsRamAndSign : Prop :=
  ∀ (s : State) (v : Word), 0 < s.nw →
    let t := s.access (.write 0x004#17 0b1111#4 v)
    (v.getLsbD 0 = false → t = { s with ctrl := ⟨v.getLsbD 1, v.getLsbD 2⟩, resp := .okay }) ∧
      (v.getLsbD 0 = true →
        t.ctrl.word = 0 ∧ t.status.word = 0 ∧ t.cmd = 0 ∧ t.errcode = .noError ∧ t.wf = 0 ∧ t.cert = 0 ∧
          t.nbits = 0 ∧ t.mconst = 0 ∧ t.wfsug = 0 ∧ t.mrrounds = 0 ∧ t.lastred = .noReduction ∧ t.winsz = 0 ∧
          t.rngcnt = 0 ∧ t.pending = none ∧ t.irq = false ∧ t.nw = s.nw ∧
          (∃ n, ∀ k, t.streamWord k = s.streamWord (n + k)) ∧
          (s.pending = none → t.mem = s.mem ∧ t.sign = s.sign ∧ ∀ k, t.streamWord k = s.streamWord k) ∧
          (∀ w i, s.pending = some w → decode w = .ok i → i.destination = none →
            t.mem = s.mem ∧ t.sign = s.sign) ∧
          ∀ w i d, s.pending = some w → decode w = .ok i → i.destination = some d →
            t.regWords d = none ∧ t.signBit d = Config.freeSign s.draws ∧
              (∀ r : RegField, r ≠ d → t.regWords r = s.regWords r ∧ t.signBit r = s.signBit r) ∧
              ∀ a, inDestination s.nw i a = false → t.mem.readByte a = s.mem.readByte a)

/-- R49, R210, R243: irq is (DONE and DONEIE) or (ERR and ERRIE); a completion without error raises it exactly when
it was raised for ERR or DONEIE is set; an error completion raises it when either enable is set; ACK (0x16 to STATUS)
and acceptance lower it. -/
def Obligations.InterruptFollowsDoneAndErr : Prop :=
  ∀ s : State,
    s.irq = ((s.status.done && s.ctrl.doneie) || (s.status.err && s.ctrl.errie)) ∧
      (∀ t cnt, Completed s t cnt → t.ctrl = s.ctrl → t.irq = (s.ctrl.doneie || (s.status.err && s.ctrl.errie))) ∧
      (∀ c, (s.raiseError c).irq = (s.ctrl.doneie || s.ctrl.errie)) ∧
      (s.access (.write 0x008#17 0b1111#4 0x16#32)).irq = false ∧ (∀ v, (s.accept v).irq = false)

/-! ### The commands -/

/-- 40_general.md R110: NOP, whose word is 0x00000000, does nothing beyond completion: DONE ← 1, RNGCNT ← 0. -/
def Obligations.NopOnlyCompletes : Prop :=
  EncodedAs 0x00 0xFFFFFFFF#32 0x00000000#32 (fun _ => .nop) ∧
    ∀ s : State,
      exec .nop s =
        .next { s with rngcnt := 0, pending := none, status := { s.status with busy := false, done := true } }

/-- 40_general.md R111: CLR Bd writes 0 to all NW words of Bd, whether or not they were ever written, and clears its
SIGN bit; RESULT is left. -/
def Obligations.ClrZeroesTheRegister : Prop :=
  EncodedAs 0x01 0xFF8FFFFF#32 0x01000000#32 (fun w => .clr (rdField w)) ∧
    ∀ (s : State) (d : RegField),
      ∃ t, exec (.clr d) s = .next t ∧ t.regWords d = some (List.replicate s.nw 0#32) ∧ t.val? d = some 0 ∧
        t.signBit d = false ∧ Completed s t 0 ∧ t.status.result = s.status.result

/-- 41_modexp.md R121: MCONST Bc. Its result is pinned down by R121's defining property. -/
def Obligations.MconstGivesTheMontgomeryConstant : Prop :=
  EncodedAs 0x03 0xFFFFF8FF#32 0x03000000#32 (fun w => .mconst (rcField w)) ∧
    ∀ (s : State) (c : RegField) (m : Int), s.val? c = some m →
      (m ≤ 0 → exec (.mconst c) s = .next (s.raiseError .invalidModulus)) ∧
        (0 < m → m % 2 = 0 → exec (.mconst c) s = .next (s.raiseError .evenModulus)) ∧
        (0 < m → m % 2 = 1 →
          ∃ t, exec (.mconst c) s = .next t ∧ m * (t.mconst.toNat : Int) % 2 ^ 32 = 0xFFFFFFFF ∧
            Completed s t 0 ∧ t.status.result = s.status.result ∧ t.lastred = s.lastred ∧ t.winsz = s.winsz ∧
            t.mem = s.mem ∧ t.sign = s.sign)

/-- 41_modexp.md R122: MODRED Bd, Ba, Bc. -/
def Obligations.ModredGivesTheFloorModulus : Prop :=
  EncodedAs 0x02 0xFF88F8FF#32 0x02000000#32 (fun w => .modred (rdField w) (raField w) (rcField w)) ∧
    ∀ (s : State) (d a c : RegField) (x m : Int), s.val? a = some x → s.val? c = some m →
      (m = 0 → exec (.modred d a c) s = .next (s.raiseError .divByZero)) ∧
        (m < 0 → exec (.modred d a c) s = .next (s.raiseError .invalidModulus)) ∧
        (0 < m →
          ∃ t, exec (.modred d a c) s = .next t ∧ t.val? d = some (x % m) ∧ 0 ≤ x % m ∧ x % m < m ∧
            t.signBit d = false ∧ t.lastred = .barrett ∧ t.winsz = 0 ∧ t.mconst = s.mconst ∧ Completed s t 0 ∧
            t.status.result = s.status.result)

/-- 41_modexp.md R128, with R124: MODSQR Bd, Ba, Bc. -/
def Obligations.ModsqrGivesTheSquareModulo : Prop :=
  EncodedAs 0x04 0xFF88F8FF#32 0x04000000#32 (fun w => .modsqr (rdField w) (raField w) (rcField w)) ∧
    ∀ (s : State) (d a c : RegField) (x m : Int), s.val? a = some x → s.val? c = some m →
      (m ≤ 0 → exec (.modsqr d a c) s = .next (s.raiseError .invalidModulus)) ∧
        (0 < m →
          ∃ t, exec (.modsqr d a c) s = .next t ∧ t.val? d = some (x * x % m) ∧ t.signBit d = false ∧
            PathReported s t (m = 1) m ∧ t.winsz = 0 ∧ Completed s t 0 ∧ t.status.result = s.status.result)

/-- 41_modexp.md R129, with R124 and R125: MODPOW Bd, Ba, Bb, Bc. -/
def Obligations.ModpowGivesThePowerModulo : Prop :=
  EncodedAs 0x06 0xFF8888FF#32 0x06000000#32 (fun w => .modpow (rdField w) (raField w) (rbField w) (rcField w)) ∧
    ∀ (s : State) (d a b c : RegField) (g e m : Int),
      s.val? a = some g → s.val? b = some e → s.val? c = some m →
      (m ≤ 0 → exec (.modpow d a b c) s = .next (s.raiseError .invalidModulus)) ∧
        (0 < m → e < 0 → exec (.modpow d a b c) s = .next (s.raiseError .negExponent)) ∧
        (0 < m → 0 ≤ e →
          ∃ t, exec (.modpow d a b c) s = .next t ∧
            t.val? d = some (if m = 1 then 0 else if e = 0 then 1 else (g % m) ^ e.toNat % m) ∧
            t.signBit d = false ∧ PathReported s t (m = 1 ∨ e = 0) m ∧
            (m = 1 ∨ e = 0 → t.winsz = 0) ∧ (m ≠ 1 → e ≠ 0 → t.winsz = windowWidth (bitlen e.toNat)) ∧
            Completed s t 0 ∧ t.status.result = s.status.result)

/-- 41_modexp.md R125's table, row by row. -/
def Obligations.WindowWidthsFollowTheTable : Prop :=
  ∀ l : Nat,
    (1 ≤ l → l ≤ 7 → windowWidth l = 1) ∧ (8 ≤ l → l ≤ 25 → windowWidth l = 2) ∧
      (26 ≤ l → l ≤ 81 → windowWidth l = 3) ∧ (82 ≤ l → l ≤ 241 → windowWidth l = 4) ∧
      (242 ≤ l → l ≤ 673 → windowWidth l = 5) ∧ (674 ≤ l → l ≤ 1793 → windowWidth l = 6) ∧
      (1794 ≤ l → windowWidth l = 7)

/-- 42_primality.md R150: what classify says is what is so: PRIME candidates are prime, COMPOSITE ones are not,
UNDECIDED ones are odd, at least 1031 and have no prime factor up to 1021. TP is the odd primes up to 1021. -/
def Obligations.ClassifyIsRight : Prop :=
  (∀ p, p ∈ trialPrimes ↔ p.Prime ∧ 3 ≤ p ∧ p ≤ 1021) ∧ trialPrimes.length = 171 ∧
    ∀ n : Nat,
      (classify n = .prime → n.Prime) ∧ (classify n = .composite → ¬n.Prime) ∧
        (classify n = .undecided → n % 2 = 1 ∧ 1031 ≤ n ∧ ∀ p, p.Prime → p ≤ 1021 → ¬p ∣ n)

/-- 42_primality.md R151: TRIALDIV Ba. RESULT says that the candidate is 2 or one of TP, or has no factor in TP and
is odd and above 1. -/
def Obligations.TrialdivTestsSmallFactors : Prop :=
  EncodedAs 0x07 0xFFF8FFFF#32 0x07000000#32 (fun w => .trialdiv (raField w)) ∧
    ∀ (s : State) (a : RegField) (n : Int), s.val? a = some n →
      (n < 0 → exec (.trialdiv a) s = .next (s.raiseError .operandRange)) ∧
        (0 ≤ n →
          ∃ t, exec (.trialdiv a) s = .next t ∧
            (t.status.result = true ↔
              n = 2 ∨ n.toNat ∈ trialPrimes ∨ (1 < n ∧ n % 2 = 1 ∧ ∀ p ∈ trialPrimes, ¬(p : Int) ∣ n)) ∧
            t.mrrounds = 0 ∧ Completed s t 0 ∧ t.mem = s.mem ∧ t.sign = s.sign)

/-- 42_primality.md R152: "If n is prime, MR(n, a) = 1 for every a not divisible by n." -/
def Obligations.PrimesPassEveryRound : Prop :=
  ∀ n a : Nat, n.Prime → n % 2 = 1 → ¬n ∣ a → mrRound n a = true

/-- 42_primality.md R153: MRROUND Ba, Bb. -/
def Obligations.MrroundReportsOneRound : Prop :=
  EncodedAs 0x08 0xFFF88FFF#32 0x08000000#32 (fun w => .mrround (raField w) (rbField w)) ∧
    ∀ (s : State) (a b : RegField) (n base : Int), s.val? a = some n → s.val? b = some base →
      (n < 3 ∨ n % 2 = 0 → exec (.mrround a b) s = .next (s.raiseError .operandRange)) ∧
        (3 ≤ n → n % 2 = 1 →
          ∃ t, exec (.mrround a b) s = .next t ∧
            (t.status.result = true ↔ StrongProbablePrime n.toNat (base % n).toNat) ∧ t.mrrounds = 1 ∧
            Completed s t 0 ∧ t.mem = s.mem ∧ t.sign = s.sign)

/-- 42_primality.md R154: the round counts, without RANDOM and with it. -/
def Obligations.RoundCountsFollowTheTable : Prop :=
  ∀ c l : Nat,
    mrRounds c l false = (c + 1) / 2 ∧
      ∀ i100, (1024 ≤ l ∧ i100 = 4) ∨ (512 ≤ l ∧ l < 1024 ∧ i100 = 8) ∨ (256 ≤ l ∧ l < 512 ∧ i100 = 16) ∨
          (l < 256 ∧ i100 = 50) →
        (c < 100 → mrRounds c l true = min i100 ((c + 1) / 2)) ∧
          (100 ≤ c → mrRounds c l true = (c + 1) / 2 - 50 + i100)

/-- 42_primality.md R156, R155, without the model's `patience`: MRTEST on a candidate that trial division decides
completes at once; on an undecided one it completes with exactly the outcome R156's loops have on the stream, and
once the loops have an outcome it completes for every patience large enough. While it does not complete, BUSY stays
1 and nothing changes but `patience` (log entry 8). -/
def Obligations.MrtestFollowsTheLoops : Prop :=
  EncodedAs 0x09 0xFFF8FFFE#32 0x09000000#32 (fun w => .mrtest (raField w) (flagBit w)) ∧
    ∀ (s : State) (a : RegField) (random : Bool) (n : Int), s.val? a = some n →
      (n < 0 → exec (.mrtest a random) s = .next (s.raiseError .operandRange)) ∧
        (0 ≤ n → classify n.toNat = .composite →
          ∃ t, exec (.mrtest a random) s = .next t ∧ t.mrrounds = 0 ∧ t.status.result = s.status.result ∧
            Completed s t 0) ∧
        (0 ≤ n → classify n.toNat = .prime →
          ∃ t, exec (.mrtest a random) s = .next t ∧ t.mrrounds = 0 ∧ t.status.result = true ∧ Completed s t 0) ∧
        (0 ≤ n → classify n.toNat = .undecided →
          let runs := RunsRounds s.streamWord n.toNat (mrRounds s.cert.toNat (bitlen n.toNat) random) 0 0
          (exec (.mrtest a random) s = .next { s with patience := s.patience + 1 } ∨
            ∃ e t, runs e ∧ exec (.mrtest a random) s = .next t ∧ t.mrrounds = BitVec.ofNat 32 e.rounds ∧
              t.status.result = (e.passed || s.status.result) ∧ Completed s t e.taken ∧
              ∀ k, t.streamWord k = s.streamWord (e.taken + k)) ∧
          ∀ e, runs e → ∃ p, ∀ q ≥ p, ∃ t, exec (.mrtest a random) { s with patience := q } = .next t ∧
            t.mrrounds = BitVec.ofNat 32 e.rounds ∧ t.status.result = (e.passed || s.status.result) ∧
            Completed s t e.taken ∧ ∀ k, t.streamWord k = s.streamWord (e.taken + k))

/-- 42_primality.md R156: "a prime n gives RESULT = 1 for every entropy stream": whenever MRTEST completes. -/
def Obligations.MrtestNeverRejectsAPrime : Prop :=
  ∀ (s t : State) (a : RegField) (random : Bool) (n : Nat), s.val? a = some (n : Int) → n.Prime →
    s.status.busy = true → exec (.mrtest a random) s = .next t → t.status.busy = false → t.status.result = true

/-- 42_primality.md R156, 93 row 6: while no draw gives a base in [2, n − 2] and a round is asked for, MRTEST keeps
running, BUSY stays 1 and nothing else changes: here for the `patience` draws of one engine turn (log entry 8), so on
a stream that never gives a base no turn completes it. -/
def Obligations.MrtestWaitsForABase : Prop :=
  ∀ (s : State) (a : RegField) (random : Bool) (n : Nat), s.val? a = some (n : Int) →
    classify n = .undecided → 0 < mrRounds s.cert.toNat (bitlen n) random →
    (∀ j < s.patience,
      ¬(2 ≤ drawBits s.streamWord (j * wordsOf (bitlen n)) (bitlen n) ∧
        drawBits s.streamWord (j * wordsOf (bitlen n)) (bitlen n) ≤ n - 2)) →
    exec (.mrtest a random) s = .next { s with patience := s.patience + 1 }

/-- The model's `patience` never changes an outcome (log entry 8): a larger one completes with the same end. -/
def Obligations.PatienceNeverChangesAnOutcome : Prop :=
  ∀ (stream : Nat → Word) (n p q left done pos : Nat) (e : RoundsEnd), p ≤ q →
    mrLoop stream n p left done pos = some e → mrLoop stream n q left done pos = some e

/-- 43_random.md R170: draw_bits(L) is the low L bits of ceil(L/32) words, the first most significant. -/
def Obligations.DrawBitsIsTheConcatenation : Prop :=
  ∀ (stream : Nat → Word) (pos l : Nat),
    drawBits stream pos l =
      ((List.range ((l + 31) / 32)).map fun j =>
        (stream (pos + j)).toNat * 2 ^ (32 * ((l + 31) / 32 - 1 - j))).sum % 2 ^ l

/-- 43_random.md R171: RANDCAND Bd [, BLUM]. Bit k of the result is forced for k = L−1, L−2, 0 and, with BLUM, 1; it
is the drawn bit otherwise. The words taken are gone from the stream and counted. -/
def Obligations.RandcandForcesBits : Prop :=
  EncodedAs 0x0A 0xFF8FFFFE#32 0x0A000000#32 (fun w => .randcand (rdField w) (flagBit w)) ∧
    ∀ (s : State) (d : RegField) (blum : Bool),
      (s.nbits.toNat < 4 ∨ 32 * s.nw < s.nbits.toNat →
        exec (.randcand d blum) s = .next (s.raiseError .invalidBitlen)) ∧
        (4 ≤ s.nbits.toNat → s.nbits.toNat ≤ 32 * s.nw →
          ∃ t v, exec (.randcand d blum) s = .next t ∧ t.val? d = some (v : Int) ∧ v < 2 ^ s.nbits.toNat ∧
            (∀ k < s.nbits.toNat,
              v.testBit k =
                ((drawBits s.streamWord 0 s.nbits.toNat).testBit k || k == s.nbits.toNat - 1 ||
                  k == s.nbits.toNat - 2 || k == 0 || (blum && k == 1))) ∧
            t.signBit d = false ∧ Completed s t ((s.nbits.toNat + 31) / 32) ∧
            t.status.result = s.status.result ∧
            ∀ k, t.streamWord k = s.streamWord ((s.nbits.toNat + 31) / 32 + k))

/-- 43_random.md R172: a candidate of L bits has exactly L bits and is at least 3·2^(L−2); it is odd, and 3 mod 4 with
BLUM; the product of two candidates has exactly the sum of their lengths. -/
def Obligations.CandidatesMakeExactProducts : Prop :=
  ∀ (u v a b : Nat) (blumU blumV : Bool), 4 ≤ a → 4 ≤ b → u < 2 ^ a → v < 2 ^ b →
    let p := forceBits u a blumU
    let q := forceBits v b blumV
    bitlen p = a ∧ 3 * 2 ^ (a - 2) ≤ p ∧ p % 2 = 1 ∧ (blumU = true → p % 4 = 3) ∧ bitlen (p * q) = a + b

/-- 44_squaring.md R180: the 62 valid workfactors are the 32-bit numbers ζ·2^δ with ζ 2 or 3. -/
def Obligations.ValidWorkfactorsAreZetaTimesPowers : Prop :=
  (∀ w : Word, isWorkfactor w = true ↔ ∃ zeta delta, (zeta = 2 ∨ zeta = 3) ∧ w.toNat = zeta * 2 ^ delta) ∧
    (∀ n, n ∈ validWorkfactors ↔
      n < 2 ^ 32 ∧ ((∃ k, 1 ≤ k ∧ k ≤ 31 ∧ n = 2 ^ k) ∨ ∃ k, k ≤ 30 ∧ n = 3 * 2 ^ k)) ∧
    validWorkfactors.length = 62 ∧ validWorkfactors.Nodup ∧ ∀ n ∈ validWorkfactors, 2 ≤ n ∧ n ≤ 0xC0000000

/-- 44_squaring.md R181: the suggestion is a valid workfactor, none is nearer, and of two equally near it is the
smaller. -/
def Obligations.NearestWorkfactorIsNearest : Prop :=
  ∀ w : Word,
    isWorkfactor (nearestWorkfactor w) = true ∧
      ∀ v : Word, isWorkfactor v = true →
        ((w.toNat : Int) - (nearestWorkfactor w).toNat).natAbs ≤ ((w.toNat : Int) - v.toNat).natAbs ∧
          (((w.toNat : Int) - (nearestWorkfactor w).toNat).natAbs = ((w.toNat : Int) - v.toNat).natAbs →
            (nearestWorkfactor w).toNat ≤ v.toNat)

/-- 44_squaring.md R182: WFCHK. -/
def Obligations.WfchkReportsValidityAndSuggestion : Prop :=
  EncodedAs 0x0B 0xFFFFFFFF#32 0x0B000000#32 (fun _ => .wfchk) ∧
    ∀ s : State,
      ∃ t, exec .wfchk s = .next t ∧ t.status.result = isWorkfactor s.wf ∧ t.wfsug = nearestWorkfactor s.wf ∧
        Completed s t 0 ∧ t.wf = s.wf ∧ t.mem = s.mem ∧ t.sign = s.sign

/-- 44_squaring.md R183 and R184: SQRLOOP Bd, Ba, Bc [, STRICT]: exactly WF + 1 squarings, which make
x^(2^(WF+1)) mod m. -/
def Obligations.SqrloopSquaresWfPlusOneTimes : Prop :=
  EncodedAs 0x05 0xFF88F8FE#32 0x05000000#32 (fun w => .sqrloop (rdField w) (raField w) (rcField w) (flagBit w)) ∧
    ∀ (s : State) (d a c : RegField) (strict : Bool) (x m : Int), s.val? a = some x → s.val? c = some m →
      (m ≤ 0 → exec (.sqrloop d a c strict) s = .next (s.raiseError .invalidModulus)) ∧
        (0 < m → strict = true → bitlen m.toNat < 1273 →
          exec (.sqrloop d a c strict) s = .next (s.raiseError .modulusTooSmall)) ∧
        (0 < m → strict = true → 1273 ≤ bitlen m.toNat → isWorkfactor s.wf = false →
          exec (.sqrloop d a c strict) s =
            .next ({ s with wfsug := nearestWorkfactor s.wf }.raiseError .invalidWorkfactor)) ∧
        (0 < m → (strict = true → 1273 ≤ bitlen m.toNat ∧ isWorkfactor s.wf = true) →
          ∃ t, exec (.sqrloop d a c strict) s = .next t ∧
            t.val? d = some ((fun y => y * y % m)^[s.wf.toNat + 1] x) ∧
            t.val? d = some (x ^ 2 ^ (s.wf.toNat + 1) % m) ∧ t.signBit d = false ∧
            PathReported s t (m = 1) m ∧ t.winsz = 0 ∧ t.wfsug = s.wfsug ∧ Completed s t 0 ∧
            t.status.result = s.status.result)

/-- 44_squaring.md R186: a long workfactor by chaining: a run of t₁ squarings and then one of t₂ on its result, each a
SQRLOOP with WF one less, leave what t₁ + t₂ squarings would. -/
def Obligations.SqrloopRunsChain : Prop :=
  ∀ (s t : State) (d a c : RegField) (x m : Int) (w₂ : Word), s.val? a = some x → s.val? c = some m → 0 < m →
    d ≠ c → exec (.sqrloop d a c false) s = .next t →
    ∃ u, exec (.sqrloop d d c false) { t with wf := w₂ } = .next u ∧
      u.val? d = some (x ^ 2 ^ (s.wf.toNat + 1 + (w₂.toNat + 1)) % m)

/-! ### Frames and whole-machine rules -/

/-- 10_state.md R20, R22: "No command … writes a big register its command word does not name": every byte of the
operand RAM outside the destination's block reads as before, every other big register has the words, SIGN bit and
value it had, and a command without a destination changes no SIGN bit. -/
def Obligations.CommandsWriteOnlyTheNamedDestination : Prop :=
  ∀ (i : Instr) (s t : State), exec i s = .next t →
    (∀ a, inDestination s.nw i a = false → t.mem.readByte a = s.mem.readByte a) ∧
      (∀ r : RegField, i.destination ≠ some r →
        t.regWords r = s.regWords r ∧ t.signBit r = s.signBit r ∧ t.val? r = s.val? r) ∧
      (i.destination = none → t.mem = s.mem ∧ t.sign = s.sign)

/-- The frame of the host's registers: no command writes NW, CTRL, OVR, CMD, WF, CERT, NBITS or the bus port
(10_state.md R24, R29, R30, R33-R35, R38). Only MRTEST and RANDCAND take entropy words (R45). -/
def Obligations.CommandsLeaveHostRegistersAlone : Prop :=
  ∀ (i : Instr) (s t : State), exec i s = .next t →
    HostSideKept s t ∧
      ((∀ a random, i ≠ .mrtest a random) → (∀ d blum, i ≠ .randcand d blum) →
        t.entropy = s.entropy ∧ t.streamPos = s.streamPos) ∧
      ((∀ a random, i ≠ .mrtest a random) → t.patience = s.patience ∧ t.status.busy = false ∧ t.pending = none)

/-- The frame of the result and informational CSRs: each changes only in a command that 10_state.md names for it
(R28 RESULT, R36 MCONST, R37 WFSUG, R40 MRROUNDS, R43 LASTRED, R44 WINSZ), and RNGCNT is 0 after every command but
RANDCAND and MRTEST (R46). -/
def Obligations.InformationalCsrsHaveTheirWriters : Prop :=
  ∀ (i : Instr) (s t : State), exec i s = .next t →
    (i.mnemonic ∉ ["TRIALDIV", "MRROUND", "MRTEST", "WFCHK"] → t.status.result = s.status.result) ∧
      (i.mnemonic ∉ ["MCONST", "MODSQR", "SQRLOOP", "MODPOW"] → t.mconst = s.mconst) ∧
      (i.mnemonic ∉ ["WFCHK", "SQRLOOP"] → t.wfsug = s.wfsug) ∧
      (i.mnemonic ∉ ["TRIALDIV", "MRROUND", "MRTEST"] → t.mrrounds = s.mrrounds) ∧
      (i.mnemonic ∉ ["MODRED", "MODSQR", "SQRLOOP", "MODPOW"] → t.lastred = s.lastred ∧ t.winsz = s.winsz) ∧
      (i.mnemonic ∉ ["RANDCAND", "MRTEST"] → t.rngcnt = 0)

/-- 10_state.md R20: "No command reads … a big register its command word does not name": two states that differ only
in the operand RAM and SIGN, and agree on the words and SIGN bits of the command's sources, give the same outcome:
both fault, or both go on to states that agree on everything but operand RAM and SIGN and on the destination's words
and SIGN bit. -/
def Obligations.CommandsReadOnlyTheNamedSources : Prop :=
  ∀ (i : Instr) (s : State) (mem : Memory) (sign : BitVec 8),
    let s' := { s with mem := mem, sign := sign }
    (∀ r ∈ i.sources, s'.regWords r = s.regWords r ∧ s'.signBit r = s.signBit r) →
      (exec i s = .fault .uninitOperand ∧ exec i s' = .fault .uninitOperand) ∨
        ∃ t t', exec i s = .next t ∧ exec i s' = .next t' ∧ t' = { t with mem := t'.mem, sign := t'.sign } ∧
          (t.status.err = true ∨ ∀ d, i.destination = some d → t'.regWords d = t.regWords d ∧
            t'.signBit d = t.signBit d)

/-- The invariant at reset: the legal-state predicate `Inv` (10_state.md R27, R28, R36, R37, R48; 00_scope.md R7)
holds of State.reset. -/
def Obligations.ResetStateIsLegal : Prop := Inv State.reset

/-- The invariant every step keeps, from every legal state and whatever event comes next. -/
def Obligations.EveryStepKeepsLegality : Prop :=
  ∀ s t : State, Inv s → step s = .next t → Inv t

/-! ### The datapath algorithms (informative in the spec) -/

/-- 41_modexp.md R123: Barrett reduction, with its extension to longer and negative operands, gives the floor
modulus. For an operand of more than 2k limbs this rests on the model's reading of "successive top portions", each one
limb longer than the last (log entry 17). -/
def Obligations.BarrettReductionIsTheModulus : Prop :=
  ∀ (x : Int) (m : Nat), 0 < m → (barrettMod x m : Int) = x % m

/-- 41_modexp.md R126: "returns T·R⁻¹ mod m" for odd m and T < m·R, and a product taken through the Montgomery domain
is the modular product. -/
def Obligations.MontgomeryReductionIsCorrect : Prop :=
  ∀ m : Nat, m % 2 = 1 →
    (∀ t, t < m * limb ^ limbsOf m → redc m t < m ∧ redc m t * limb ^ limbsOf m % m = t % m) ∧
      ∀ a b : Nat, montgomeryProduct m a b = a * b % m

/-- 41_modexp.md R127: sliding-window exponentiation with R125's width gives the modular power. -/
def Obligations.SlidingWindowIsThePower : Prop :=
  ∀ g e m : Nat, 0 < m → slidingWindowPow g e m = g ^ e % m

/-- 42_primality.md R157: batched trial division finds a factor exactly when some prime of TP divides the candidate,
and every batch product is below 2^31. -/
def Obligations.BatchesFindTheSameFactors : Prop :=
  (∀ n, batchesFindFactor n = true ↔ ∃ p ∈ trialPrimes, p ∣ n) ∧ ∀ b ∈ trialBatches, b.prod < 2 ^ 31
end

