-- ==== Sys2Proof/Laws/Arith.lean ====
section
/-! SUPPORT. What the shared arithmetic computes: one lemma per function. -/

namespace Sys2Proof.Machine

/-! ### Bit length (00_scope.md R9) -/

theorem lt_two_pow_bitlen (v : Nat) : v < 2 ^ bitlen v := by
  unfold bitlen
  split
  · simp_all
  · exact Nat.lt_log2_self

theorem bitlen_le {v l : Nat} (h : v < 2 ^ l) : bitlen v ≤ l := by
  unfold bitlen
  split
  · omega
  · next hv => exact (Nat.log2_lt hv).2 h

theorem bitlen_pos {v : Nat} (h : 0 < v) : 0 < bitlen v := by
  unfold bitlen
  split <;> omega

/-- A number of `bitlen v` bits has its top bit set. -/
theorem two_pow_le_of_bitlen {v l : Nat} (h : bitlen v = l + 1) : 2 ^ l ≤ v := by
  by_contra hlt
  have := bitlen_le (Nat.lt_of_not_le hlt)
  omega

/-! ### Modular power -/

theorem powModFuel_eq (m fuel base e : Nat) (h : e < 2 ^ fuel) : powModFuel m fuel base e = base ^ e % m := by
  induction fuel generalizing base e with
  | zero =>
    obtain rfl : e = 0 := by simpa using h
    rfl
  | succ fuel ih =>
    have he : e / 2 < 2 ^ fuel := by rw [Nat.pow_succ] at h; omega
    have hsq : (base * base % m) ^ (e / 2) % m = base ^ (2 * (e / 2)) % m := by
      rw [Nat.pow_mul, Nat.pow_two]
      exact (Nat.pow_mod _ _ _).symm
    unfold powModFuel
    split
    · next hodd =>
      rw [ih _ _ he, hsq, Nat.mul_mod, Nat.mod_mod, ← Nat.mul_mod]
      congr 1
      rw [← Nat.pow_succ', show (2 * (e / 2)).succ = e by omega]
    · next heven =>
      rw [ih _ _ he, hsq, show 2 * (e / 2) = e by omega]

/-- `powMod` is the modular power. -/
theorem powMod_eq (base e m : Nat) : powMod base e m = base ^ e % m := by
  rw [powMod, powModFuel_eq _ _ _ _ (lt_two_pow_bitlen e), ← Nat.pow_mod]

/-! ### The word inverse (00_scope.md R9) -/

/-- A Newton step squares the error. -/
theorem one_sub_mul_invStep (a b : Word) : 1 - a * invStep a b = (1 - a * b) ^ 2 := by
  unfold invStep; ring

/-- The first error is a multiple of 8. -/
theorem eight_dvd_one_sub_sq (a : Word) (h : a.toNat % 2 = 1) : ∃ k : Word, 1 - a * a = 8 * k := by
  obtain ⟨j, hj⟩ : ∃ j, a.toNat = 2 * j + 1 := ⟨a.toNat / 2, by omega⟩
  obtain ⟨t, ht⟩ : ∃ t, j * (j + 1) = 2 * t := ⟨j * (j + 1) / 2, by
    have := (Nat.even_mul_succ_self j).two_dvd; omega⟩
  have ha : a = ((2 * j + 1 : Nat) : Word) := by
    rw [← hj]; simp
  have ht' : (j : Word) * (j + 1) = 2 * (t : Word) := by exact_mod_cast congrArg (Nat.cast (R := Word)) ht
  refine ⟨-(t : Word), ?_⟩
  rw [ha, Nat.cast_add, Nat.cast_mul, Nat.cast_one, Nat.cast_ofNat]
  linear_combination (-4 : Word) * ht'

/-- `inv32` is the inverse modulo 2^32 of an odd word. -/
theorem mul_inv32 (a : Word) (h : a.toNat % 2 = 1) : a * inv32 a = 1 := by
  obtain ⟨k, hk⟩ := eight_dvd_one_sub_sq a h
  have hz : (8 : Word) ^ 16 = 0 := by decide
  have : 1 - a * inv32 a = 0 := by
    unfold inv32
    rw [one_sub_mul_invStep, one_sub_mul_invStep, one_sub_mul_invStep, one_sub_mul_invStep, hk]
    calc ((((8 * k) ^ 2) ^ 2) ^ 2) ^ 2 = 8 ^ 16 * k ^ 16 := by ring
      _ = 0 := by rw [hz, zero_mul]
  exact (sub_eq_zero.1 this).symm

/-- The Montgomery constant is minus the inverse of the modulus's low word. -/
theorem mul_montgomeryConstant (m : Nat) (h : m % 2 = 1) : (BitVec.ofNat 32 m) * montgomeryConstant m = -1 := by
  have hodd : (BitVec.ofNat 32 m).toNat % 2 = 1 := by simp [BitVec.toNat_ofNat]; omega
  rw [montgomeryConstant, mul_neg, mul_inv32 _ hodd]

/-- A Montgomery constant is odd. -/
theorem montgomeryConstant_odd (m : Nat) (h : m % 2 = 1) : (montgomeryConstant m).toNat % 2 = 1 := by
  have hmul := congrArg BitVec.toNat (mul_montgomeryConstant m h)
  rw [BitVec.toNat_mul] at hmul
  have hneg : (-1 : Word).toNat = 0xFFFFFFFF := by decide
  rw [hneg] at hmul
  by_contra hc
  have heven : (montgomeryConstant m).toNat % 2 = 0 := by omega
  have h2 : ((BitVec.ofNat 32 m).toNat * (montgomeryConstant m).toNat) % 2 = 0 := by
    rw [Nat.mul_mod, heven]; simp
  omega

end Sys2Proof.Machine
end

