-- ==== Sys2Proof/Laws/Decode.lean ====
section
/-! SUPPORT. The fields of a packed command word, and what it means that a word decodes. -/

namespace Sys2Proof

variable (opc : BitVec 8) (rd ra rb rc : RegField) (flags : BitVec 8)

/-! ### The fields of a packed word (30_encoding.md R91) -/

/-- Bit `k` of a packed word, field by field. -/
theorem packFields_getLsbD (k : Nat) :
    (packFields opc rd ra rb rc flags).getLsbD k =
      if k < 8 then flags.getLsbD k else if k < 12 then rc.getLsbD (k - 8) else if k < 16 then rb.getLsbD (k - 12)
      else if k < 20 then ra.getLsbD (k - 16) else if k < 24 then rd.getLsbD (k - 20) else opc.getLsbD (k - 24) := by
  simp only [packFields, BitVec.getLsbD_append, Nat.sub_sub]
  split_ifs <;> first | rfl | omega

@[simp] theorem opcField_packFields : opcField (packFields opc rd ra rb rc flags) = opc := by
  apply BitVec.eq_of_getLsbD_eq
  intro k hk
  simp only [opcField, BitVec.getLsbD_extractLsb', packFields_getLsbD, hk, decide_true, Bool.true_and]
  rw [if_neg (by omega), if_neg (by omega), if_neg (by omega), if_neg (by omega), if_neg (by omega),
    Nat.add_sub_cancel_left]

@[simp] theorem rdField_packFields : rdField (packFields opc rd ra rb rc flags) = rd := by
  apply BitVec.eq_of_getLsbD_eq
  intro k hk
  simp only [rdField, BitVec.getLsbD_extractLsb', packFields_getLsbD, hk, decide_true, Bool.true_and]
  rw [if_neg (by omega), if_neg (by omega), if_neg (by omega), if_neg (by omega), if_pos (by omega),
    Nat.add_sub_cancel_left]

@[simp] theorem raField_packFields : raField (packFields opc rd ra rb rc flags) = ra := by
  apply BitVec.eq_of_getLsbD_eq
  intro k hk
  simp only [raField, BitVec.getLsbD_extractLsb', packFields_getLsbD, hk, decide_true, Bool.true_and]
  rw [if_neg (by omega), if_neg (by omega), if_neg (by omega), if_pos (by omega), Nat.add_sub_cancel_left]

@[simp] theorem rbField_packFields : rbField (packFields opc rd ra rb rc flags) = rb := by
  apply BitVec.eq_of_getLsbD_eq
  intro k hk
  simp only [rbField, BitVec.getLsbD_extractLsb', packFields_getLsbD, hk, decide_true, Bool.true_and]
  rw [if_neg (by omega), if_neg (by omega), if_pos (by omega), Nat.add_sub_cancel_left]

@[simp] theorem rcField_packFields : rcField (packFields opc rd ra rb rc flags) = rc := by
  apply BitVec.eq_of_getLsbD_eq
  intro k hk
  simp only [rcField, BitVec.getLsbD_extractLsb', packFields_getLsbD, hk, decide_true, Bool.true_and]
  rw [if_neg (by omega), if_pos (by omega), Nat.add_sub_cancel_left]

@[simp] theorem flagsField_packFields : flagsField (packFields opc rd ra rb rc flags) = flags := by
  apply BitVec.eq_of_getLsbD_eq
  intro k hk
  simp only [flagsField, BitVec.getLsbD_extractLsb', packFields_getLsbD, hk, decide_true, Bool.true_and]
  rw [if_pos (by omega), Nat.zero_add]

/-- A word is its fields. -/
theorem packFields_fields (w : Word) :
    packFields (opcField w) (rdField w) (raField w) (rbField w) (rcField w) (flagsField w) = w := by
  apply BitVec.eq_of_getLsbD_eq
  intro k hk
  simp only [packFields_getLsbD, opcField, rdField, raField, rbField, rcField, flagsField,
    BitVec.getLsbD_extractLsb']
  split_ifs <;> rw [decide_eq_true (by omega), Bool.true_and] <;> congr 1 <;> omega

/-- The masks of the opcode map work field by field. -/
theorem packFields_and (opc' : BitVec 8) (rd' ra' rb' rc' : RegField) (flags' : BitVec 8) :
    packFields opc rd ra rb rc flags &&& packFields opc' rd' ra' rb' rc' flags' =
      packFields (opc &&& opc') (rd &&& rd') (ra &&& ra') (rb &&& rb') (rc &&& rc') (flags &&& flags') := by
  apply BitVec.eq_of_getLsbD_eq
  intro k _
  rw [BitVec.getLsbD_and, packFields_getLsbD, packFields_getLsbD, packFields_getLsbD]
  split_ifs <;> rw [BitVec.getLsbD_and]

/-! ### Decoding -/

/-- A word decodes to `i` when its opcode selects `i` and its fields are legal for it (30_encoding.md R96). -/
theorem decode_eq_ok_iff (w : Word) (i : Instr) :
    decode w = .ok i ↔ selectOpcode w = some i ∧ fieldsOk i.fieldUse w = true := by
  unfold decode
  cases h : selectOpcode w with
  | none => simp
  | some j =>
    by_cases hf : fieldsOk j.fieldUse w = true
    · simp only [hf, if_true, Except.ok.injEq, Option.some.injEq]
      constructor
      · rintro rfl; exact ⟨rfl, hf⟩
      · exact fun h => h.1
    · simp only [hf, Option.some.injEq]
      constructor
      · intro h; simp at h
      · rintro ⟨rfl, h⟩; exact absurd h hf

/-- A register field below 8 has its top bit clear. -/
theorem isBigReg_and_eight {f : RegField} (h : RegField.isBigReg f = true) : f &&& 8#4 = 0#4 := by
  revert f; decide

end Sys2Proof
end

