-- ==== Sys2Proof/Laws/Memory.lean ====
section
/-! SUPPORT. The laws of the operand RAM: a load after a store to the same block gives what was stored, disjoint
blocks are left alone, and every operation keeps the canonical form. None needs the canonical form to hold first,
but for `wf` itself. -/

namespace Sys2Proof.Machine

variable {m : Memory} {lo n a : Nat} {bs : List Byte}

/-! ### The cells of a block -/

theorem Memory.cellsFrom_keys (lo : Nat) (bs : List Byte) :
    (Memory.cellsFrom lo bs).map Prod.fst = List.range' lo bs.length := by
  induction bs generalizing lo with
  | nil => rfl
  | cons b bs ih => simp [Memory.cellsFrom, ih, List.range'_succ]

theorem Memory.cellsFrom_values (lo : Nat) (bs : List Byte) : (Memory.cellsFrom lo bs).map Prod.snd = bs := by
  induction bs generalizing lo with
  | nil => rfl
  | cons b bs ih => simp [Memory.cellsFrom, ih]

theorem Memory.mem_cellsFrom_range {c : Host.Cell} (h : c ∈ Memory.cellsFrom lo bs) :
    lo ≤ c.1 ∧ c.1 < lo + bs.length := by
  have hk : c.1 ∈ (Memory.cellsFrom lo bs).map Prod.fst := List.mem_map_of_mem h
  rw [Memory.cellsFrom_keys, List.mem_range'_1] at hk
  exact hk

/-- Every offset of the block has a cell. -/
theorem Memory.exists_mem_cellsFrom (h : lo ≤ a ∧ a < lo + bs.length) : ∃ v, (a, v) ∈ Memory.cellsFrom lo bs := by
  have hk : a ∈ (Memory.cellsFrom lo bs).map Prod.fst := by
    rw [Memory.cellsFrom_keys, List.mem_range'_1]; exact h
  obtain ⟨⟨_, v⟩, hc, rfl⟩ := List.mem_map.1 hk
  exact ⟨v, hc⟩

/-! ### Membership after an operation -/

theorem Memory.mem_store {c : Host.Cell} :
    c ∈ m.store lo bs ↔
      c ∈ Memory.cellsFrom lo bs ∨ (c ∈ m ∧ (c.1 < lo ∨ lo + bs.length ≤ c.1)) := by
  simp only [Memory.store, List.mem_append, List.mem_filter, decide_eq_true_eq]
  tauto

theorem Memory.mem_forget {c : Host.Cell} :
    c ∈ m.forget lo n ↔ c ∈ m ∧ (c.1 < lo ∨ lo + n ≤ c.1) := by
  simp only [Memory.forget, List.mem_append, List.mem_filter, decide_eq_true_eq]
  tauto

/-! ### The window of a load after an operation -/

theorem Memory.window_eq_self (h : ∀ c ∈ m, lo ≤ c.1 ∧ c.1 < lo + n) : m.window lo n = m :=
  List.filter_eq_self.2 fun c hc => by simpa using h c hc

theorem Memory.window_eq_nil (h : ∀ c ∈ m, c.1 < lo ∨ lo + n ≤ c.1) : m.window lo n = [] :=
  List.filter_eq_nil_iff.2 fun c hc => by have := h c hc; simp; omega

theorem Memory.window_append (m₁ m₂ : Memory) : Memory.window (m₁ ++ m₂) lo n = m₁.window lo n ++ m₂.window lo n :=
  List.filter_append ..

theorem Memory.window_below (b : Nat) (h : lo + n ≤ b) :
    Memory.window (m.filter fun c => decide (c.1 < b)) lo n = m.window lo n := by
  simp only [Memory.window, List.filter_filter]
  refine List.filter_congr fun c _ => ?_
  by_cases h1 : lo ≤ c.1 <;> by_cases h2 : c.1 < lo + n <;> simp [h1, h2]
  omega

theorem Memory.window_above (b : Nat) (h : b ≤ lo) :
    Memory.window (m.filter fun c => decide (b ≤ c.1)) lo n = m.window lo n := by
  simp only [Memory.window, List.filter_filter]
  refine List.filter_congr fun c _ => ?_
  by_cases h1 : lo ≤ c.1 <;> by_cases h2 : c.1 < lo + n <;> simp [h1, h2]
  omega

theorem Memory.window_lt_nil (b : Nat) (h : b ≤ lo) :
    Memory.window (m.filter fun c => decide (c.1 < b)) lo n = [] :=
  Memory.window_eq_nil fun c hc => by have := (List.mem_filter.1 hc).2; simp at this; omega

theorem Memory.window_ge_nil (b : Nat) (h : lo + n ≤ b) :
    Memory.window (m.filter fun c => decide (b ≤ c.1)) lo n = [] :=
  Memory.window_eq_nil fun c hc => by have := (List.mem_filter.1 hc).2; simp at this; omega

theorem Memory.window_store_same : Memory.window (m.store lo bs) lo bs.length = Memory.cellsFrom lo bs := by
  simp only [Memory.store, Memory.window_append, Memory.window_lt_nil lo le_rfl,
    Memory.window_ge_nil (lo + bs.length) le_rfl, List.nil_append, List.append_nil]
  exact Memory.window_eq_self fun _ hc => Memory.mem_cellsFrom_range hc

theorem Memory.window_store_disjoint (h : a + n ≤ lo ∨ lo + bs.length ≤ a) :
    Memory.window (m.store lo bs) a n = m.window a n := by
  have hcells : Memory.window (Memory.cellsFrom lo bs) a n = [] :=
    Memory.window_eq_nil fun c hc => by have := Memory.mem_cellsFrom_range hc; omega
  simp only [Memory.store, Memory.window_append, hcells, List.nil_append]
  obtain h | h := h
  · rw [Memory.window_below lo h, Memory.window_ge_nil (lo + bs.length) (by omega), List.append_nil]
  · rw [Memory.window_lt_nil lo (by omega), Memory.window_above _ h, List.nil_append]

theorem Memory.window_forget_same : Memory.window (m.forget lo n) lo n = [] := by
  simp only [Memory.forget, Memory.window_append, Memory.window_lt_nil lo le_rfl,
    Memory.window_ge_nil (lo + n) le_rfl, List.append_nil]

theorem Memory.window_forget_disjoint {k : Nat} (h : a + k ≤ lo ∨ lo + n ≤ a) :
    Memory.window (m.forget lo n) a k = m.window a k := by
  simp only [Memory.forget, Memory.window_append]
  obtain h | h := h
  · rw [Memory.window_below lo h, Memory.window_ge_nil (lo + n) (by omega), List.append_nil]
  · rw [Memory.window_lt_nil lo (by omega), Memory.window_above _ h, List.nil_append]

/-! ### Loads -/

@[simp] theorem Memory.load_store_same : (m.store lo bs).load lo bs.length = some bs := by
  simp [Memory.load, Memory.window_store_same, Memory.cellsFrom_keys, Memory.cellsFrom_values]

theorem Memory.load_store_disjoint (h : a + n ≤ lo ∨ lo + bs.length ≤ a) :
    (m.store lo bs).load a n = m.load a n := by
  simp only [Memory.load, Memory.window_store_disjoint h]

theorem Memory.load_forget_same (h : 0 < n) : (m.forget lo n).load lo n = none := by
  obtain ⟨k, rfl⟩ : ∃ k, n = k + 1 := ⟨n - 1, by omega⟩
  simp [Memory.load, Memory.window_forget_same, List.range'_succ]

theorem Memory.load_forget_disjoint {k : Nat} (h : a + k ≤ lo ∨ lo + n ≤ a) :
    (m.forget lo n).load a k = m.load a k := by
  simp only [Memory.load, Memory.window_forget_disjoint h]

/-- A load that succeeds gives as many bytes as were asked for. -/
theorem Memory.load_length (h : m.load lo n = some bs) : bs.length = n := by
  unfold Memory.load at h
  split at h
  · next hk =>
    obtain rfl := Option.some.inj h
    have := congrArg List.length hk
    simpa using this
  · exact absurd h (by simp)

theorem Memory.readByte_store_disjoint (h : a < lo ∨ lo + bs.length ≤ a) :
    (m.store lo bs).readByte a = m.readByte a := by
  simp only [Memory.readByte, Memory.load_store_disjoint (n := 1) (a := a) (bs := bs) (lo := lo) (m := m) (by omega)]

theorem Memory.readByte_forget_disjoint (h : a < lo ∨ lo + n ≤ a) :
    (m.forget lo n).readByte a = m.readByte a := by
  simp only [Memory.readByte, Memory.load_forget_disjoint (k := 1) (a := a) (lo := lo) (n := n) (m := m) (by omega)]

/-! ### Words -/

@[simp] theorem wordBytes_length (w : Word) : (wordBytes w).length = 4 := rfl

theorem flatMap_wordBytes_length (ws : List Word) : (ws.flatMap wordBytes).length = 4 * ws.length := by
  induction ws with
  | nil => rfl
  | cons w ws ih => simp [ih]; omega

/-- The four bytes of a word make the word. -/
theorem wordBytes_append (w : Word) :
    (w.extractLsb' 24 8 ++ w.extractLsb' 16 8 ++ w.extractLsb' 8 8 ++ w.extractLsb' 0 8 : Word) = w := by
  apply BitVec.eq_of_getLsbD_eq
  intro i hi
  simp only [BitVec.getLsbD_append, BitVec.getLsbD_extractLsb']
  by_cases h0 : i < 8
  · simp [h0]
  · by_cases h1 : i < 16
    · simp [h0, show i - 8 < 8 by omega, show 8 + (i - 8) = i by omega]
    · by_cases h2 : i < 24
      · simp [h0, show ¬ i - 8 < 8 by omega, show i - 8 - 8 < 8 by omega, show 16 + (i - 8 - 8) = i by omega]
      · simp [h0, show ¬ i - 8 < 8 by omega, show ¬ i - 8 - 8 < 8 by omega, show i - 8 - 8 - 8 < 8 by omega,
          show 24 + (i - 8 - 8 - 8) = i by omega]

@[simp] theorem bytesToWords_flatMap (ws : List Word) : bytesToWords (ws.flatMap wordBytes) = ws := by
  induction ws with
  | nil => rfl
  | cons w ws ih =>
    simp only [List.flatMap_cons, wordBytes, List.cons_append, List.nil_append, bytesToWords, ih]
    rw [wordBytes_append]

/-- Four bytes make one word. -/
theorem bytesToWords_length (k : Nat) (bs : List Byte) (h : bs.length = 4 * k) : (bytesToWords bs).length = k := by
  induction k generalizing bs with
  | zero => simp_all [bytesToWords]
  | succ k ih =>
    match bs, h with
    | b0 :: b1 :: b2 :: b3 :: rest, h => simp [bytesToWords, ih rest (by simp at h; omega)]

@[simp] theorem Memory.loadWords_storeWords_same (ws : List Word) :
    (m.storeWords lo ws).loadWords lo ws.length = some ws := by
  have h := (flatMap_wordBytes_length ws).symm
  rw [Memory.loadWords, Memory.storeWords, h, Memory.load_store_same, Option.map_some, bytesToWords_flatMap]

theorem Memory.loadWords_storeWords_disjoint {ws : List Word} (h : a + 4 * n ≤ lo ∨ lo + 4 * ws.length ≤ a) :
    (m.storeWords lo ws).loadWords a n = m.loadWords a n := by
  rw [Memory.loadWords, Memory.storeWords, Memory.load_store_disjoint (by rwa [flatMap_wordBytes_length]), Memory.loadWords]

theorem Memory.loadWords_forget_disjoint {k : Nat} (h : a + 4 * k ≤ lo ∨ lo + n ≤ a) :
    (m.forget lo n).loadWords a k = m.loadWords a k := by
  rw [Memory.loadWords, Memory.load_forget_disjoint h, Memory.loadWords]

theorem Memory.loadWords_length {ws : List Word} (h : m.loadWords lo n = some ws) : ws.length = n := by
  unfold Memory.loadWords at h
  obtain ⟨bs, hb, rfl⟩ := Option.map_eq_some_iff.1 h
  exact bytesToWords_length n bs (Memory.load_length hb)

@[simp] theorem Memory.loadWord_storeWord_same (w : Word) : (m.storeWord a w).loadWord a = some w := by
  have h := Memory.loadWords_storeWords_same (m := m) (lo := a) [w]
  simp only [List.length_singleton] at h
  simp only [Memory.loadWord, Memory.storeWord, h]

theorem Memory.loadWord_storeWord_disjoint {b : Nat} {w : Word} (h : b + 4 ≤ a ∨ a + 4 ≤ b) :
    (m.storeWord a w).loadWord b = m.loadWord b := by
  simp only [Memory.loadWord, Memory.storeWord]
  rw [Memory.loadWords_storeWords_disjoint (by simpa using h)]

/-! ### Canonical form -/

theorem Memory.wf_nil : Memory.wf [] := List.Pairwise.nil

theorem Memory.wf_filter (h : m.wf) (p : Host.Cell → Bool) : Memory.wf (m.filter p) :=
  h.sublist (List.filter_sublist.map _)

theorem Memory.wf_append {m₁ m₂ : Memory} (h₁ : m₁.wf) (h₂ : m₂.wf)
    (h : ∀ c ∈ m₁, ∀ c' ∈ m₂, c.1 < c'.1) : Memory.wf (m₁ ++ m₂) := by
  simp only [Memory.wf, List.map_append, List.pairwise_append]
  refine ⟨h₁, h₂, fun x hx y hy => ?_⟩
  obtain ⟨c, hc, rfl⟩ := List.mem_map.1 hx
  obtain ⟨c', hc', rfl⟩ := List.mem_map.1 hy
  exact h c hc c' hc'

theorem Memory.wf_cellsFrom (lo : Nat) (bs : List Byte) : Memory.wf (Memory.cellsFrom lo bs) := by
  simp only [Memory.wf, Memory.cellsFrom_keys]
  exact List.pairwise_lt_range'

/-- Storing keeps the canonical form. -/
theorem Memory.wf_store (h : m.wf) (lo : Nat) (bs : List Byte) : Memory.wf (m.store lo bs) := by
  refine Memory.wf_append (Memory.wf_filter h _)
    (Memory.wf_append (Memory.wf_cellsFrom lo bs) (Memory.wf_filter h _) fun c hc c' hc' => ?_)
    fun c hc c' hc' => ?_
  · have h1 := Memory.mem_cellsFrom_range hc
    have h2 := (List.mem_filter.1 hc').2
    simp at h2; omega
  · have h1 := (List.mem_filter.1 hc).2
    simp at h1
    rcases List.mem_append.1 hc' with hc' | hc'
    · have := Memory.mem_cellsFrom_range hc'; omega
    · have h2 := (List.mem_filter.1 hc').2
      simp at h2; omega

/-- Storing words keeps the canonical form. -/
theorem Memory.wf_storeWords (h : m.wf) (lo : Nat) (ws : List Word) : Memory.wf (m.storeWords lo ws) :=
  Memory.wf_store h lo _

/-- Storing a word keeps the canonical form. -/
theorem Memory.wf_storeWord (h : m.wf) (a : Nat) (w : Word) : Memory.wf (m.storeWord a w) :=
  Memory.wf_store h a _

/-- Forgetting a block keeps the canonical form. -/
theorem Memory.wf_forget (h : m.wf) (lo n : Nat) : Memory.wf (m.forget lo n) :=
  Memory.wf_append (Memory.wf_filter h _) (Memory.wf_filter h _) fun c hc c' hc' => by
    have h1 := (List.mem_filter.1 hc).2
    have h2 := (List.mem_filter.1 hc').2
    simp at h1 h2; omega

/-- The operand RAM after reset is canonical. -/
theorem reset_mem_wf : State.reset.mem.wf := Memory.wf_nil

end Sys2Proof.Machine
end

