-- ==== Sys2Proof/Laws/State.lean ====
section
/-! SUPPORT. One lemma per field per update of the state, so that no proof unfolds a record update. -/

namespace Sys2Proof.Machine

variable (s : State)

/-! ### accept -/

@[simp] theorem State.accept_nw (v : Word) : (s.accept v).nw = s.nw := rfl
@[simp] theorem State.accept_mem (v : Word) : (s.accept v).mem = s.mem := rfl
@[simp] theorem State.accept_ctrl (v : Word) : (s.accept v).ctrl = s.ctrl := rfl
@[simp] theorem State.accept_status (v : Word) : (s.accept v).status = { s.status with busy := true, done := false, err := false, result := false } := rfl
@[simp] theorem State.accept_cmd (v : Word) : (s.accept v).cmd = v := rfl
@[simp] theorem State.accept_errcode (v : Word) : (s.accept v).errcode = .noError := rfl
@[simp] theorem State.accept_sign (v : Word) : (s.accept v).sign = s.sign := rfl
@[simp] theorem State.accept_wf (v : Word) : (s.accept v).wf = s.wf := rfl
@[simp] theorem State.accept_cert (v : Word) : (s.accept v).cert = s.cert := rfl
@[simp] theorem State.accept_nbits (v : Word) : (s.accept v).nbits = s.nbits := rfl
@[simp] theorem State.accept_mconst (v : Word) : (s.accept v).mconst = s.mconst := rfl
@[simp] theorem State.accept_wfsug (v : Word) : (s.accept v).wfsug = s.wfsug := rfl
@[simp] theorem State.accept_mrrounds (v : Word) : (s.accept v).mrrounds = s.mrrounds := rfl
@[simp] theorem State.accept_lastred (v : Word) : (s.accept v).lastred = s.lastred := rfl
@[simp] theorem State.accept_winsz (v : Word) : (s.accept v).winsz = s.winsz := rfl
@[simp] theorem State.accept_rngcnt (v : Word) : (s.accept v).rngcnt = s.rngcnt := rfl
@[simp] theorem State.accept_pending (v : Word) : (s.accept v).pending = some v := rfl
@[simp] theorem State.accept_streamPos (v : Word) : (s.accept v).streamPos = s.streamPos := rfl
@[simp] theorem State.accept_entropy (v : Word) : (s.accept v).entropy = s.entropy := rfl
@[simp] theorem State.accept_rdata (v : Word) : (s.accept v).rdata = s.rdata := rfl
@[simp] theorem State.accept_resp (v : Word) : (s.accept v).resp = s.resp := rfl
@[simp] theorem State.accept_inputs (v : Word) : (s.accept v).inputs = s.inputs := rfl
@[simp] theorem State.accept_draws (v : Word) : (s.accept v).draws = s.draws := rfl
@[simp] theorem State.accept_patience (v : Word) : (s.accept v).patience = s.patience := rfl

/-! ### complete -/

@[simp] theorem State.complete_nw (cnt : Nat) : (s.complete cnt).nw = s.nw := rfl
@[simp] theorem State.complete_mem (cnt : Nat) : (s.complete cnt).mem = s.mem := rfl
@[simp] theorem State.complete_ctrl (cnt : Nat) : (s.complete cnt).ctrl = s.ctrl := rfl
@[simp] theorem State.complete_status (cnt : Nat) : (s.complete cnt).status = { s.status with done := true, busy := false } := rfl
@[simp] theorem State.complete_cmd (cnt : Nat) : (s.complete cnt).cmd = s.cmd := rfl
@[simp] theorem State.complete_errcode (cnt : Nat) : (s.complete cnt).errcode = s.errcode := rfl
@[simp] theorem State.complete_sign (cnt : Nat) : (s.complete cnt).sign = s.sign := rfl
@[simp] theorem State.complete_wf (cnt : Nat) : (s.complete cnt).wf = s.wf := rfl
@[simp] theorem State.complete_cert (cnt : Nat) : (s.complete cnt).cert = s.cert := rfl
@[simp] theorem State.complete_nbits (cnt : Nat) : (s.complete cnt).nbits = s.nbits := rfl
@[simp] theorem State.complete_mconst (cnt : Nat) : (s.complete cnt).mconst = s.mconst := rfl
@[simp] theorem State.complete_wfsug (cnt : Nat) : (s.complete cnt).wfsug = s.wfsug := rfl
@[simp] theorem State.complete_mrrounds (cnt : Nat) : (s.complete cnt).mrrounds = s.mrrounds := rfl
@[simp] theorem State.complete_lastred (cnt : Nat) : (s.complete cnt).lastred = s.lastred := rfl
@[simp] theorem State.complete_winsz (cnt : Nat) : (s.complete cnt).winsz = s.winsz := rfl
@[simp] theorem State.complete_rngcnt (cnt : Nat) : (s.complete cnt).rngcnt = saturate32 cnt := rfl
@[simp] theorem State.complete_pending (cnt : Nat) : (s.complete cnt).pending = none := rfl
@[simp] theorem State.complete_streamPos (cnt : Nat) : (s.complete cnt).streamPos = s.streamPos := rfl
@[simp] theorem State.complete_entropy (cnt : Nat) : (s.complete cnt).entropy = s.entropy := rfl
@[simp] theorem State.complete_rdata (cnt : Nat) : (s.complete cnt).rdata = s.rdata := rfl
@[simp] theorem State.complete_resp (cnt : Nat) : (s.complete cnt).resp = s.resp := rfl
@[simp] theorem State.complete_inputs (cnt : Nat) : (s.complete cnt).inputs = s.inputs := rfl
@[simp] theorem State.complete_draws (cnt : Nat) : (s.complete cnt).draws = s.draws := rfl
@[simp] theorem State.complete_patience (cnt : Nat) : (s.complete cnt).patience = s.patience := rfl

/-! ### raiseError -/

@[simp] theorem State.raiseError_nw (c : ErrCode) : (s.raiseError c).nw = s.nw := rfl
@[simp] theorem State.raiseError_mem (c : ErrCode) : (s.raiseError c).mem = s.mem := rfl
@[simp] theorem State.raiseError_ctrl (c : ErrCode) : (s.raiseError c).ctrl = s.ctrl := rfl
@[simp] theorem State.raiseError_status (c : ErrCode) : (s.raiseError c).status = { s.status with err := true, done := true, busy := false } := rfl
@[simp] theorem State.raiseError_cmd (c : ErrCode) : (s.raiseError c).cmd = s.cmd := rfl
@[simp] theorem State.raiseError_errcode (c : ErrCode) : (s.raiseError c).errcode = c := rfl
@[simp] theorem State.raiseError_sign (c : ErrCode) : (s.raiseError c).sign = s.sign := rfl
@[simp] theorem State.raiseError_wf (c : ErrCode) : (s.raiseError c).wf = s.wf := rfl
@[simp] theorem State.raiseError_cert (c : ErrCode) : (s.raiseError c).cert = s.cert := rfl
@[simp] theorem State.raiseError_nbits (c : ErrCode) : (s.raiseError c).nbits = s.nbits := rfl
@[simp] theorem State.raiseError_mconst (c : ErrCode) : (s.raiseError c).mconst = s.mconst := rfl
@[simp] theorem State.raiseError_wfsug (c : ErrCode) : (s.raiseError c).wfsug = s.wfsug := rfl
@[simp] theorem State.raiseError_mrrounds (c : ErrCode) : (s.raiseError c).mrrounds = s.mrrounds := rfl
@[simp] theorem State.raiseError_lastred (c : ErrCode) : (s.raiseError c).lastred = s.lastred := rfl
@[simp] theorem State.raiseError_winsz (c : ErrCode) : (s.raiseError c).winsz = s.winsz := rfl
@[simp] theorem State.raiseError_rngcnt (c : ErrCode) : (s.raiseError c).rngcnt = 0 := rfl
@[simp] theorem State.raiseError_pending (c : ErrCode) : (s.raiseError c).pending = none := rfl
@[simp] theorem State.raiseError_streamPos (c : ErrCode) : (s.raiseError c).streamPos = s.streamPos := rfl
@[simp] theorem State.raiseError_entropy (c : ErrCode) : (s.raiseError c).entropy = s.entropy := rfl
@[simp] theorem State.raiseError_rdata (c : ErrCode) : (s.raiseError c).rdata = s.rdata := rfl
@[simp] theorem State.raiseError_resp (c : ErrCode) : (s.raiseError c).resp = s.resp := rfl
@[simp] theorem State.raiseError_inputs (c : ErrCode) : (s.raiseError c).inputs = s.inputs := rfl
@[simp] theorem State.raiseError_draws (c : ErrCode) : (s.raiseError c).draws = s.draws := rfl
@[simp] theorem State.raiseError_patience (c : ErrCode) : (s.raiseError c).patience = s.patience := rfl

/-! ### setResult -/

@[simp] theorem State.setResult_nw (b : Bool) : (s.setResult b).nw = s.nw := rfl
@[simp] theorem State.setResult_mem (b : Bool) : (s.setResult b).mem = s.mem := rfl
@[simp] theorem State.setResult_ctrl (b : Bool) : (s.setResult b).ctrl = s.ctrl := rfl
@[simp] theorem State.setResult_status (b : Bool) : (s.setResult b).status = { s.status with result := b } := rfl
@[simp] theorem State.setResult_cmd (b : Bool) : (s.setResult b).cmd = s.cmd := rfl
@[simp] theorem State.setResult_errcode (b : Bool) : (s.setResult b).errcode = s.errcode := rfl
@[simp] theorem State.setResult_sign (b : Bool) : (s.setResult b).sign = s.sign := rfl
@[simp] theorem State.setResult_wf (b : Bool) : (s.setResult b).wf = s.wf := rfl
@[simp] theorem State.setResult_cert (b : Bool) : (s.setResult b).cert = s.cert := rfl
@[simp] theorem State.setResult_nbits (b : Bool) : (s.setResult b).nbits = s.nbits := rfl
@[simp] theorem State.setResult_mconst (b : Bool) : (s.setResult b).mconst = s.mconst := rfl
@[simp] theorem State.setResult_wfsug (b : Bool) : (s.setResult b).wfsug = s.wfsug := rfl
@[simp] theorem State.setResult_mrrounds (b : Bool) : (s.setResult b).mrrounds = s.mrrounds := rfl
@[simp] theorem State.setResult_lastred (b : Bool) : (s.setResult b).lastred = s.lastred := rfl
@[simp] theorem State.setResult_winsz (b : Bool) : (s.setResult b).winsz = s.winsz := rfl
@[simp] theorem State.setResult_rngcnt (b : Bool) : (s.setResult b).rngcnt = s.rngcnt := rfl
@[simp] theorem State.setResult_pending (b : Bool) : (s.setResult b).pending = s.pending := rfl
@[simp] theorem State.setResult_streamPos (b : Bool) : (s.setResult b).streamPos = s.streamPos := rfl
@[simp] theorem State.setResult_entropy (b : Bool) : (s.setResult b).entropy = s.entropy := rfl
@[simp] theorem State.setResult_rdata (b : Bool) : (s.setResult b).rdata = s.rdata := rfl
@[simp] theorem State.setResult_resp (b : Bool) : (s.setResult b).resp = s.resp := rfl
@[simp] theorem State.setResult_inputs (b : Bool) : (s.setResult b).inputs = s.inputs := rfl
@[simp] theorem State.setResult_draws (b : Bool) : (s.setResult b).draws = s.draws := rfl
@[simp] theorem State.setResult_patience (b : Bool) : (s.setResult b).patience = s.patience := rfl

/-! ### takeWords -/

@[simp] theorem State.takeWords_nw (n : Nat) : (s.takeWords n).nw = s.nw := rfl
@[simp] theorem State.takeWords_mem (n : Nat) : (s.takeWords n).mem = s.mem := rfl
@[simp] theorem State.takeWords_ctrl (n : Nat) : (s.takeWords n).ctrl = s.ctrl := rfl
@[simp] theorem State.takeWords_status (n : Nat) : (s.takeWords n).status = s.status := rfl
@[simp] theorem State.takeWords_cmd (n : Nat) : (s.takeWords n).cmd = s.cmd := rfl
@[simp] theorem State.takeWords_errcode (n : Nat) : (s.takeWords n).errcode = s.errcode := rfl
@[simp] theorem State.takeWords_sign (n : Nat) : (s.takeWords n).sign = s.sign := rfl
@[simp] theorem State.takeWords_wf (n : Nat) : (s.takeWords n).wf = s.wf := rfl
@[simp] theorem State.takeWords_cert (n : Nat) : (s.takeWords n).cert = s.cert := rfl
@[simp] theorem State.takeWords_nbits (n : Nat) : (s.takeWords n).nbits = s.nbits := rfl
@[simp] theorem State.takeWords_mconst (n : Nat) : (s.takeWords n).mconst = s.mconst := rfl
@[simp] theorem State.takeWords_wfsug (n : Nat) : (s.takeWords n).wfsug = s.wfsug := rfl
@[simp] theorem State.takeWords_mrrounds (n : Nat) : (s.takeWords n).mrrounds = s.mrrounds := rfl
@[simp] theorem State.takeWords_lastred (n : Nat) : (s.takeWords n).lastred = s.lastred := rfl
@[simp] theorem State.takeWords_winsz (n : Nat) : (s.takeWords n).winsz = s.winsz := rfl
@[simp] theorem State.takeWords_rngcnt (n : Nat) : (s.takeWords n).rngcnt = s.rngcnt := rfl
@[simp] theorem State.takeWords_pending (n : Nat) : (s.takeWords n).pending = s.pending := rfl
@[simp] theorem State.takeWords_streamPos (n : Nat) : (s.takeWords n).streamPos = s.streamPos + n := rfl
@[simp] theorem State.takeWords_entropy (n : Nat) : (s.takeWords n).entropy = s.entropy.drop n := rfl
@[simp] theorem State.takeWords_rdata (n : Nat) : (s.takeWords n).rdata = s.rdata := rfl
@[simp] theorem State.takeWords_resp (n : Nat) : (s.takeWords n).resp = s.resp := rfl
@[simp] theorem State.takeWords_inputs (n : Nat) : (s.takeWords n).inputs = s.inputs := rfl
@[simp] theorem State.takeWords_draws (n : Nat) : (s.takeWords n).draws = s.draws := rfl
@[simp] theorem State.takeWords_patience (n : Nat) : (s.takeWords n).patience = s.patience := rfl

/-! ### drawn -/

@[simp] theorem State.drawn_nw : (s.drawn).nw = s.nw := rfl
@[simp] theorem State.drawn_mem : (s.drawn).mem = s.mem := rfl
@[simp] theorem State.drawn_ctrl : (s.drawn).ctrl = s.ctrl := rfl
@[simp] theorem State.drawn_status : (s.drawn).status = s.status := rfl
@[simp] theorem State.drawn_cmd : (s.drawn).cmd = s.cmd := rfl
@[simp] theorem State.drawn_errcode : (s.drawn).errcode = s.errcode := rfl
@[simp] theorem State.drawn_sign : (s.drawn).sign = s.sign := rfl
@[simp] theorem State.drawn_wf : (s.drawn).wf = s.wf := rfl
@[simp] theorem State.drawn_cert : (s.drawn).cert = s.cert := rfl
@[simp] theorem State.drawn_nbits : (s.drawn).nbits = s.nbits := rfl
@[simp] theorem State.drawn_mconst : (s.drawn).mconst = s.mconst := rfl
@[simp] theorem State.drawn_wfsug : (s.drawn).wfsug = s.wfsug := rfl
@[simp] theorem State.drawn_mrrounds : (s.drawn).mrrounds = s.mrrounds := rfl
@[simp] theorem State.drawn_lastred : (s.drawn).lastred = s.lastred := rfl
@[simp] theorem State.drawn_winsz : (s.drawn).winsz = s.winsz := rfl
@[simp] theorem State.drawn_rngcnt : (s.drawn).rngcnt = s.rngcnt := rfl
@[simp] theorem State.drawn_pending : (s.drawn).pending = s.pending := rfl
@[simp] theorem State.drawn_streamPos : (s.drawn).streamPos = s.streamPos := rfl
@[simp] theorem State.drawn_entropy : (s.drawn).entropy = s.entropy := rfl
@[simp] theorem State.drawn_rdata : (s.drawn).rdata = s.rdata := rfl
@[simp] theorem State.drawn_resp : (s.drawn).resp = s.resp := rfl
@[simp] theorem State.drawn_inputs : (s.drawn).inputs = s.inputs := rfl
@[simp] theorem State.drawn_draws : (s.drawn).draws = s.draws + 1 := rfl
@[simp] theorem State.drawn_patience : (s.drawn).patience = s.patience := rfl

/-! ### loseWords -/

@[simp] theorem State.loseWords_nw : (s.loseWords).nw = s.nw := rfl
@[simp] theorem State.loseWords_mem : (s.loseWords).mem = s.mem := rfl
@[simp] theorem State.loseWords_ctrl : (s.loseWords).ctrl = s.ctrl := rfl
@[simp] theorem State.loseWords_status : (s.loseWords).status = s.status := rfl
@[simp] theorem State.loseWords_cmd : (s.loseWords).cmd = s.cmd := rfl
@[simp] theorem State.loseWords_errcode : (s.loseWords).errcode = s.errcode := rfl
@[simp] theorem State.loseWords_sign : (s.loseWords).sign = s.sign := rfl
@[simp] theorem State.loseWords_wf : (s.loseWords).wf = s.wf := rfl
@[simp] theorem State.loseWords_cert : (s.loseWords).cert = s.cert := rfl
@[simp] theorem State.loseWords_nbits : (s.loseWords).nbits = s.nbits := rfl
@[simp] theorem State.loseWords_mconst : (s.loseWords).mconst = s.mconst := rfl
@[simp] theorem State.loseWords_wfsug : (s.loseWords).wfsug = s.wfsug := rfl
@[simp] theorem State.loseWords_mrrounds : (s.loseWords).mrrounds = s.mrrounds := rfl
@[simp] theorem State.loseWords_lastred : (s.loseWords).lastred = s.lastred := rfl
@[simp] theorem State.loseWords_winsz : (s.loseWords).winsz = s.winsz := rfl
@[simp] theorem State.loseWords_rngcnt : (s.loseWords).rngcnt = s.rngcnt := rfl
@[simp] theorem State.loseWords_pending : (s.loseWords).pending = s.pending := rfl
@[simp] theorem State.loseWords_streamPos : (s.loseWords).streamPos = s.streamPos + Config.freeCount s.draws := rfl
@[simp] theorem State.loseWords_entropy : (s.loseWords).entropy = s.entropy.drop (Config.freeCount s.draws) := rfl
@[simp] theorem State.loseWords_rdata : (s.loseWords).rdata = s.rdata := rfl
@[simp] theorem State.loseWords_resp : (s.loseWords).resp = s.resp := rfl
@[simp] theorem State.loseWords_inputs : (s.loseWords).inputs = s.inputs := rfl
@[simp] theorem State.loseWords_draws : (s.loseWords).draws = s.draws + 1 := rfl
@[simp] theorem State.loseWords_patience : (s.loseWords).patience = s.patience := rfl

/-! ### writeReg -/

@[simp] theorem State.writeReg_nw (i : RegField) (v : Nat) : (s.writeReg i v).nw = s.nw := rfl
@[simp] theorem State.writeReg_mem (i : RegField) (v : Nat) : (s.writeReg i v).mem = s.mem.storeWords (wordOffset s.nw i.toNat 0) (imageWords s.nw v) := rfl
@[simp] theorem State.writeReg_ctrl (i : RegField) (v : Nat) : (s.writeReg i v).ctrl = s.ctrl := rfl
@[simp] theorem State.writeReg_status (i : RegField) (v : Nat) : (s.writeReg i v).status = s.status := rfl
@[simp] theorem State.writeReg_cmd (i : RegField) (v : Nat) : (s.writeReg i v).cmd = s.cmd := rfl
@[simp] theorem State.writeReg_errcode (i : RegField) (v : Nat) : (s.writeReg i v).errcode = s.errcode := rfl
@[simp] theorem State.writeReg_sign (i : RegField) (v : Nat) : (s.writeReg i v).sign = clearSign s.sign i := rfl
@[simp] theorem State.writeReg_wf (i : RegField) (v : Nat) : (s.writeReg i v).wf = s.wf := rfl
@[simp] theorem State.writeReg_cert (i : RegField) (v : Nat) : (s.writeReg i v).cert = s.cert := rfl
@[simp] theorem State.writeReg_nbits (i : RegField) (v : Nat) : (s.writeReg i v).nbits = s.nbits := rfl
@[simp] theorem State.writeReg_mconst (i : RegField) (v : Nat) : (s.writeReg i v).mconst = s.mconst := rfl
@[simp] theorem State.writeReg_wfsug (i : RegField) (v : Nat) : (s.writeReg i v).wfsug = s.wfsug := rfl
@[simp] theorem State.writeReg_mrrounds (i : RegField) (v : Nat) : (s.writeReg i v).mrrounds = s.mrrounds := rfl
@[simp] theorem State.writeReg_lastred (i : RegField) (v : Nat) : (s.writeReg i v).lastred = s.lastred := rfl
@[simp] theorem State.writeReg_winsz (i : RegField) (v : Nat) : (s.writeReg i v).winsz = s.winsz := rfl
@[simp] theorem State.writeReg_rngcnt (i : RegField) (v : Nat) : (s.writeReg i v).rngcnt = s.rngcnt := rfl
@[simp] theorem State.writeReg_pending (i : RegField) (v : Nat) : (s.writeReg i v).pending = s.pending := rfl
@[simp] theorem State.writeReg_streamPos (i : RegField) (v : Nat) : (s.writeReg i v).streamPos = s.streamPos := rfl
@[simp] theorem State.writeReg_entropy (i : RegField) (v : Nat) : (s.writeReg i v).entropy = s.entropy := rfl
@[simp] theorem State.writeReg_rdata (i : RegField) (v : Nat) : (s.writeReg i v).rdata = s.rdata := rfl
@[simp] theorem State.writeReg_resp (i : RegField) (v : Nat) : (s.writeReg i v).resp = s.resp := rfl
@[simp] theorem State.writeReg_inputs (i : RegField) (v : Nat) : (s.writeReg i v).inputs = s.inputs := rfl
@[simp] theorem State.writeReg_draws (i : RegField) (v : Nat) : (s.writeReg i v).draws = s.draws := rfl
@[simp] theorem State.writeReg_patience (i : RegField) (v : Nat) : (s.writeReg i v).patience = s.patience := rfl

/-! ### spoilReg -/

@[simp] theorem State.spoilReg_nw (i : RegField) (b : Bool) : (s.spoilReg i b).nw = s.nw := rfl
@[simp] theorem State.spoilReg_mem (i : RegField) (b : Bool) : (s.spoilReg i b).mem = s.mem.forget (wordOffset s.nw i.toNat 0) (4 * s.nw) := rfl
@[simp] theorem State.spoilReg_ctrl (i : RegField) (b : Bool) : (s.spoilReg i b).ctrl = s.ctrl := rfl
@[simp] theorem State.spoilReg_status (i : RegField) (b : Bool) : (s.spoilReg i b).status = s.status := rfl
@[simp] theorem State.spoilReg_cmd (i : RegField) (b : Bool) : (s.spoilReg i b).cmd = s.cmd := rfl
@[simp] theorem State.spoilReg_errcode (i : RegField) (b : Bool) : (s.spoilReg i b).errcode = s.errcode := rfl
@[simp] theorem State.spoilReg_sign (i : RegField) (b : Bool) : (s.spoilReg i b).sign = putSign s.sign i b := rfl
@[simp] theorem State.spoilReg_wf (i : RegField) (b : Bool) : (s.spoilReg i b).wf = s.wf := rfl
@[simp] theorem State.spoilReg_cert (i : RegField) (b : Bool) : (s.spoilReg i b).cert = s.cert := rfl
@[simp] theorem State.spoilReg_nbits (i : RegField) (b : Bool) : (s.spoilReg i b).nbits = s.nbits := rfl
@[simp] theorem State.spoilReg_mconst (i : RegField) (b : Bool) : (s.spoilReg i b).mconst = s.mconst := rfl
@[simp] theorem State.spoilReg_wfsug (i : RegField) (b : Bool) : (s.spoilReg i b).wfsug = s.wfsug := rfl
@[simp] theorem State.spoilReg_mrrounds (i : RegField) (b : Bool) : (s.spoilReg i b).mrrounds = s.mrrounds := rfl
@[simp] theorem State.spoilReg_lastred (i : RegField) (b : Bool) : (s.spoilReg i b).lastred = s.lastred := rfl
@[simp] theorem State.spoilReg_winsz (i : RegField) (b : Bool) : (s.spoilReg i b).winsz = s.winsz := rfl
@[simp] theorem State.spoilReg_rngcnt (i : RegField) (b : Bool) : (s.spoilReg i b).rngcnt = s.rngcnt := rfl
@[simp] theorem State.spoilReg_pending (i : RegField) (b : Bool) : (s.spoilReg i b).pending = s.pending := rfl
@[simp] theorem State.spoilReg_streamPos (i : RegField) (b : Bool) : (s.spoilReg i b).streamPos = s.streamPos := rfl
@[simp] theorem State.spoilReg_entropy (i : RegField) (b : Bool) : (s.spoilReg i b).entropy = s.entropy := rfl
@[simp] theorem State.spoilReg_rdata (i : RegField) (b : Bool) : (s.spoilReg i b).rdata = s.rdata := rfl
@[simp] theorem State.spoilReg_resp (i : RegField) (b : Bool) : (s.spoilReg i b).resp = s.resp := rfl
@[simp] theorem State.spoilReg_inputs (i : RegField) (b : Bool) : (s.spoilReg i b).inputs = s.inputs := rfl
@[simp] theorem State.spoilReg_draws (i : RegField) (b : Bool) : (s.spoilReg i b).draws = s.draws := rfl
@[simp] theorem State.spoilReg_patience (i : RegField) (b : Bool) : (s.spoilReg i b).patience = s.patience := rfl

/-! ### setWinsz -/

@[simp] theorem State.setWinsz_nw (w : BitVec 4) : (s.setWinsz w).nw = s.nw := rfl
@[simp] theorem State.setWinsz_mem (w : BitVec 4) : (s.setWinsz w).mem = s.mem := rfl
@[simp] theorem State.setWinsz_ctrl (w : BitVec 4) : (s.setWinsz w).ctrl = s.ctrl := rfl
@[simp] theorem State.setWinsz_status (w : BitVec 4) : (s.setWinsz w).status = s.status := rfl
@[simp] theorem State.setWinsz_cmd (w : BitVec 4) : (s.setWinsz w).cmd = s.cmd := rfl
@[simp] theorem State.setWinsz_errcode (w : BitVec 4) : (s.setWinsz w).errcode = s.errcode := rfl
@[simp] theorem State.setWinsz_sign (w : BitVec 4) : (s.setWinsz w).sign = s.sign := rfl
@[simp] theorem State.setWinsz_wf (w : BitVec 4) : (s.setWinsz w).wf = s.wf := rfl
@[simp] theorem State.setWinsz_cert (w : BitVec 4) : (s.setWinsz w).cert = s.cert := rfl
@[simp] theorem State.setWinsz_nbits (w : BitVec 4) : (s.setWinsz w).nbits = s.nbits := rfl
@[simp] theorem State.setWinsz_mconst (w : BitVec 4) : (s.setWinsz w).mconst = s.mconst := rfl
@[simp] theorem State.setWinsz_wfsug (w : BitVec 4) : (s.setWinsz w).wfsug = s.wfsug := rfl
@[simp] theorem State.setWinsz_mrrounds (w : BitVec 4) : (s.setWinsz w).mrrounds = s.mrrounds := rfl
@[simp] theorem State.setWinsz_lastred (w : BitVec 4) : (s.setWinsz w).lastred = s.lastred := rfl
@[simp] theorem State.setWinsz_winsz (w : BitVec 4) : (s.setWinsz w).winsz = w := rfl
@[simp] theorem State.setWinsz_rngcnt (w : BitVec 4) : (s.setWinsz w).rngcnt = s.rngcnt := rfl
@[simp] theorem State.setWinsz_pending (w : BitVec 4) : (s.setWinsz w).pending = s.pending := rfl
@[simp] theorem State.setWinsz_streamPos (w : BitVec 4) : (s.setWinsz w).streamPos = s.streamPos := rfl
@[simp] theorem State.setWinsz_entropy (w : BitVec 4) : (s.setWinsz w).entropy = s.entropy := rfl
@[simp] theorem State.setWinsz_rdata (w : BitVec 4) : (s.setWinsz w).rdata = s.rdata := rfl
@[simp] theorem State.setWinsz_resp (w : BitVec 4) : (s.setWinsz w).resp = s.resp := rfl
@[simp] theorem State.setWinsz_inputs (w : BitVec 4) : (s.setWinsz w).inputs = s.inputs := rfl
@[simp] theorem State.setWinsz_draws (w : BitVec 4) : (s.setWinsz w).draws = s.draws := rfl
@[simp] theorem State.setWinsz_patience (w : BitVec 4) : (s.setWinsz w).patience = s.patience := rfl

/-! ### setLastred -/

@[simp] theorem State.setLastred_nw (r : Reduction) : (s.setLastred r).nw = s.nw := rfl
@[simp] theorem State.setLastred_mem (r : Reduction) : (s.setLastred r).mem = s.mem := rfl
@[simp] theorem State.setLastred_ctrl (r : Reduction) : (s.setLastred r).ctrl = s.ctrl := rfl
@[simp] theorem State.setLastred_status (r : Reduction) : (s.setLastred r).status = s.status := rfl
@[simp] theorem State.setLastred_cmd (r : Reduction) : (s.setLastred r).cmd = s.cmd := rfl
@[simp] theorem State.setLastred_errcode (r : Reduction) : (s.setLastred r).errcode = s.errcode := rfl
@[simp] theorem State.setLastred_sign (r : Reduction) : (s.setLastred r).sign = s.sign := rfl
@[simp] theorem State.setLastred_wf (r : Reduction) : (s.setLastred r).wf = s.wf := rfl
@[simp] theorem State.setLastred_cert (r : Reduction) : (s.setLastred r).cert = s.cert := rfl
@[simp] theorem State.setLastred_nbits (r : Reduction) : (s.setLastred r).nbits = s.nbits := rfl
@[simp] theorem State.setLastred_mconst (r : Reduction) : (s.setLastred r).mconst = s.mconst := rfl
@[simp] theorem State.setLastred_wfsug (r : Reduction) : (s.setLastred r).wfsug = s.wfsug := rfl
@[simp] theorem State.setLastred_mrrounds (r : Reduction) : (s.setLastred r).mrrounds = s.mrrounds := rfl
@[simp] theorem State.setLastred_lastred (r : Reduction) : (s.setLastred r).lastred = r := rfl
@[simp] theorem State.setLastred_winsz (r : Reduction) : (s.setLastred r).winsz = s.winsz := rfl
@[simp] theorem State.setLastred_rngcnt (r : Reduction) : (s.setLastred r).rngcnt = s.rngcnt := rfl
@[simp] theorem State.setLastred_pending (r : Reduction) : (s.setLastred r).pending = s.pending := rfl
@[simp] theorem State.setLastred_streamPos (r : Reduction) : (s.setLastred r).streamPos = s.streamPos := rfl
@[simp] theorem State.setLastred_entropy (r : Reduction) : (s.setLastred r).entropy = s.entropy := rfl
@[simp] theorem State.setLastred_rdata (r : Reduction) : (s.setLastred r).rdata = s.rdata := rfl
@[simp] theorem State.setLastred_resp (r : Reduction) : (s.setLastred r).resp = s.resp := rfl
@[simp] theorem State.setLastred_inputs (r : Reduction) : (s.setLastred r).inputs = s.inputs := rfl
@[simp] theorem State.setLastred_draws (r : Reduction) : (s.setLastred r).draws = s.draws := rfl
@[simp] theorem State.setLastred_patience (r : Reduction) : (s.setLastred r).patience = s.patience := rfl

/-! ### answer -/

@[simp] theorem State.answer_nw (v : Word) : (s.answer v).nw = s.nw := rfl
@[simp] theorem State.answer_mem (v : Word) : (s.answer v).mem = s.mem := rfl
@[simp] theorem State.answer_ctrl (v : Word) : (s.answer v).ctrl = s.ctrl := rfl
@[simp] theorem State.answer_status (v : Word) : (s.answer v).status = s.status := rfl
@[simp] theorem State.answer_cmd (v : Word) : (s.answer v).cmd = s.cmd := rfl
@[simp] theorem State.answer_errcode (v : Word) : (s.answer v).errcode = s.errcode := rfl
@[simp] theorem State.answer_sign (v : Word) : (s.answer v).sign = s.sign := rfl
@[simp] theorem State.answer_wf (v : Word) : (s.answer v).wf = s.wf := rfl
@[simp] theorem State.answer_cert (v : Word) : (s.answer v).cert = s.cert := rfl
@[simp] theorem State.answer_nbits (v : Word) : (s.answer v).nbits = s.nbits := rfl
@[simp] theorem State.answer_mconst (v : Word) : (s.answer v).mconst = s.mconst := rfl
@[simp] theorem State.answer_wfsug (v : Word) : (s.answer v).wfsug = s.wfsug := rfl
@[simp] theorem State.answer_mrrounds (v : Word) : (s.answer v).mrrounds = s.mrrounds := rfl
@[simp] theorem State.answer_lastred (v : Word) : (s.answer v).lastred = s.lastred := rfl
@[simp] theorem State.answer_winsz (v : Word) : (s.answer v).winsz = s.winsz := rfl
@[simp] theorem State.answer_rngcnt (v : Word) : (s.answer v).rngcnt = s.rngcnt := rfl
@[simp] theorem State.answer_pending (v : Word) : (s.answer v).pending = s.pending := rfl
@[simp] theorem State.answer_streamPos (v : Word) : (s.answer v).streamPos = s.streamPos := rfl
@[simp] theorem State.answer_entropy (v : Word) : (s.answer v).entropy = s.entropy := rfl
@[simp] theorem State.answer_rdata (v : Word) : (s.answer v).rdata = v := rfl
@[simp] theorem State.answer_resp (v : Word) : (s.answer v).resp = .okay := rfl
@[simp] theorem State.answer_inputs (v : Word) : (s.answer v).inputs = s.inputs := rfl
@[simp] theorem State.answer_draws (v : Word) : (s.answer v).draws = s.draws := rfl
@[simp] theorem State.answer_patience (v : Word) : (s.answer v).patience = s.patience := rfl

/-! ### answerFree -/

@[simp] theorem State.answerFree_nw : (s.answerFree).nw = s.nw := rfl
@[simp] theorem State.answerFree_mem : (s.answerFree).mem = s.mem := rfl
@[simp] theorem State.answerFree_ctrl : (s.answerFree).ctrl = s.ctrl := rfl
@[simp] theorem State.answerFree_status : (s.answerFree).status = s.status := rfl
@[simp] theorem State.answerFree_cmd : (s.answerFree).cmd = s.cmd := rfl
@[simp] theorem State.answerFree_errcode : (s.answerFree).errcode = s.errcode := rfl
@[simp] theorem State.answerFree_sign : (s.answerFree).sign = s.sign := rfl
@[simp] theorem State.answerFree_wf : (s.answerFree).wf = s.wf := rfl
@[simp] theorem State.answerFree_cert : (s.answerFree).cert = s.cert := rfl
@[simp] theorem State.answerFree_nbits : (s.answerFree).nbits = s.nbits := rfl
@[simp] theorem State.answerFree_mconst : (s.answerFree).mconst = s.mconst := rfl
@[simp] theorem State.answerFree_wfsug : (s.answerFree).wfsug = s.wfsug := rfl
@[simp] theorem State.answerFree_mrrounds : (s.answerFree).mrrounds = s.mrrounds := rfl
@[simp] theorem State.answerFree_lastred : (s.answerFree).lastred = s.lastred := rfl
@[simp] theorem State.answerFree_winsz : (s.answerFree).winsz = s.winsz := rfl
@[simp] theorem State.answerFree_rngcnt : (s.answerFree).rngcnt = s.rngcnt := rfl
@[simp] theorem State.answerFree_pending : (s.answerFree).pending = s.pending := rfl
@[simp] theorem State.answerFree_streamPos : (s.answerFree).streamPos = s.streamPos := rfl
@[simp] theorem State.answerFree_entropy : (s.answerFree).entropy = s.entropy := rfl
@[simp] theorem State.answerFree_rdata : (s.answerFree).rdata = Config.freeWord s.draws := rfl
@[simp] theorem State.answerFree_resp : (s.answerFree).resp = .okay := rfl
@[simp] theorem State.answerFree_inputs : (s.answerFree).inputs = s.inputs := rfl
@[simp] theorem State.answerFree_draws : (s.answerFree).draws = s.draws + 1 := rfl
@[simp] theorem State.answerFree_patience : (s.answerFree).patience = s.patience := rfl

/-! ### dropWrite -/

@[simp] theorem State.dropWrite_nw : (s.dropWrite).nw = s.nw := rfl
@[simp] theorem State.dropWrite_mem : (s.dropWrite).mem = s.mem := rfl
@[simp] theorem State.dropWrite_ctrl : (s.dropWrite).ctrl = s.ctrl := rfl
@[simp] theorem State.dropWrite_status : (s.dropWrite).status = { s.status with ovr := true } := rfl
@[simp] theorem State.dropWrite_cmd : (s.dropWrite).cmd = s.cmd := rfl
@[simp] theorem State.dropWrite_errcode : (s.dropWrite).errcode = s.errcode := rfl
@[simp] theorem State.dropWrite_sign : (s.dropWrite).sign = s.sign := rfl
@[simp] theorem State.dropWrite_wf : (s.dropWrite).wf = s.wf := rfl
@[simp] theorem State.dropWrite_cert : (s.dropWrite).cert = s.cert := rfl
@[simp] theorem State.dropWrite_nbits : (s.dropWrite).nbits = s.nbits := rfl
@[simp] theorem State.dropWrite_mconst : (s.dropWrite).mconst = s.mconst := rfl
@[simp] theorem State.dropWrite_wfsug : (s.dropWrite).wfsug = s.wfsug := rfl
@[simp] theorem State.dropWrite_mrrounds : (s.dropWrite).mrrounds = s.mrrounds := rfl
@[simp] theorem State.dropWrite_lastred : (s.dropWrite).lastred = s.lastred := rfl
@[simp] theorem State.dropWrite_winsz : (s.dropWrite).winsz = s.winsz := rfl
@[simp] theorem State.dropWrite_rngcnt : (s.dropWrite).rngcnt = s.rngcnt := rfl
@[simp] theorem State.dropWrite_pending : (s.dropWrite).pending = s.pending := rfl
@[simp] theorem State.dropWrite_streamPos : (s.dropWrite).streamPos = s.streamPos := rfl
@[simp] theorem State.dropWrite_entropy : (s.dropWrite).entropy = s.entropy := rfl
@[simp] theorem State.dropWrite_rdata : (s.dropWrite).rdata = s.rdata := rfl
@[simp] theorem State.dropWrite_resp : (s.dropWrite).resp = s.resp := rfl
@[simp] theorem State.dropWrite_inputs : (s.dropWrite).inputs = s.inputs := rfl
@[simp] theorem State.dropWrite_draws : (s.dropWrite).draws = s.draws := rfl
@[simp] theorem State.dropWrite_patience : (s.dropWrite).patience = s.patience := rfl

/-! ### resetCsrs -/

@[simp] theorem State.resetCsrs_nw : (s.resetCsrs).nw = s.nw := rfl
@[simp] theorem State.resetCsrs_mem : (s.resetCsrs).mem = s.mem := rfl
@[simp] theorem State.resetCsrs_ctrl : (s.resetCsrs).ctrl = ⟨false, false⟩ := rfl
@[simp] theorem State.resetCsrs_status : (s.resetCsrs).status = ⟨false, false, false, false, false⟩ := rfl
@[simp] theorem State.resetCsrs_cmd : (s.resetCsrs).cmd = 0 := rfl
@[simp] theorem State.resetCsrs_errcode : (s.resetCsrs).errcode = .noError := rfl
@[simp] theorem State.resetCsrs_sign : (s.resetCsrs).sign = s.sign := rfl
@[simp] theorem State.resetCsrs_wf : (s.resetCsrs).wf = 0 := rfl
@[simp] theorem State.resetCsrs_cert : (s.resetCsrs).cert = 0 := rfl
@[simp] theorem State.resetCsrs_nbits : (s.resetCsrs).nbits = 0 := rfl
@[simp] theorem State.resetCsrs_mconst : (s.resetCsrs).mconst = 0 := rfl
@[simp] theorem State.resetCsrs_wfsug : (s.resetCsrs).wfsug = 0 := rfl
@[simp] theorem State.resetCsrs_mrrounds : (s.resetCsrs).mrrounds = 0 := rfl
@[simp] theorem State.resetCsrs_lastred : (s.resetCsrs).lastred = .noReduction := rfl
@[simp] theorem State.resetCsrs_winsz : (s.resetCsrs).winsz = 0 := rfl
@[simp] theorem State.resetCsrs_rngcnt : (s.resetCsrs).rngcnt = 0 := rfl
@[simp] theorem State.resetCsrs_pending : (s.resetCsrs).pending = none := rfl
@[simp] theorem State.resetCsrs_streamPos : (s.resetCsrs).streamPos = s.streamPos := rfl
@[simp] theorem State.resetCsrs_entropy : (s.resetCsrs).entropy = s.entropy := rfl
@[simp] theorem State.resetCsrs_rdata : (s.resetCsrs).rdata = s.rdata := rfl
@[simp] theorem State.resetCsrs_resp : (s.resetCsrs).resp = s.resp := rfl
@[simp] theorem State.resetCsrs_inputs : (s.resetCsrs).inputs = s.inputs := rfl
@[simp] theorem State.resetCsrs_draws : (s.resetCsrs).draws = s.draws := rfl
@[simp] theorem State.resetCsrs_patience : (s.resetCsrs).patience = s.patience := rfl

/-! ### reportPath -/

@[simp] theorem State.reportPath_nw (b : Bool) (m : Nat) : (s.reportPath b m).nw = s.nw := by
  unfold State.reportPath; split_ifs <;> rfl
@[simp] theorem State.reportPath_mem (b : Bool) (m : Nat) : (s.reportPath b m).mem = s.mem := by
  unfold State.reportPath; split_ifs <;> rfl
@[simp] theorem State.reportPath_ctrl (b : Bool) (m : Nat) : (s.reportPath b m).ctrl = s.ctrl := by
  unfold State.reportPath; split_ifs <;> rfl
@[simp] theorem State.reportPath_status (b : Bool) (m : Nat) : (s.reportPath b m).status = s.status := by
  unfold State.reportPath; split_ifs <;> rfl
@[simp] theorem State.reportPath_cmd (b : Bool) (m : Nat) : (s.reportPath b m).cmd = s.cmd := by
  unfold State.reportPath; split_ifs <;> rfl
@[simp] theorem State.reportPath_errcode (b : Bool) (m : Nat) : (s.reportPath b m).errcode = s.errcode := by
  unfold State.reportPath; split_ifs <;> rfl
@[simp] theorem State.reportPath_sign (b : Bool) (m : Nat) : (s.reportPath b m).sign = s.sign := by
  unfold State.reportPath; split_ifs <;> rfl
@[simp] theorem State.reportPath_wf (b : Bool) (m : Nat) : (s.reportPath b m).wf = s.wf := by
  unfold State.reportPath; split_ifs <;> rfl
@[simp] theorem State.reportPath_cert (b : Bool) (m : Nat) : (s.reportPath b m).cert = s.cert := by
  unfold State.reportPath; split_ifs <;> rfl
@[simp] theorem State.reportPath_nbits (b : Bool) (m : Nat) : (s.reportPath b m).nbits = s.nbits := by
  unfold State.reportPath; split_ifs <;> rfl
@[simp] theorem State.reportPath_wfsug (b : Bool) (m : Nat) : (s.reportPath b m).wfsug = s.wfsug := by
  unfold State.reportPath; split_ifs <;> rfl
@[simp] theorem State.reportPath_mrrounds (b : Bool) (m : Nat) : (s.reportPath b m).mrrounds = s.mrrounds := by
  unfold State.reportPath; split_ifs <;> rfl
@[simp] theorem State.reportPath_winsz (b : Bool) (m : Nat) : (s.reportPath b m).winsz = s.winsz := by
  unfold State.reportPath; split_ifs <;> rfl
@[simp] theorem State.reportPath_rngcnt (b : Bool) (m : Nat) : (s.reportPath b m).rngcnt = s.rngcnt := by
  unfold State.reportPath; split_ifs <;> rfl
@[simp] theorem State.reportPath_pending (b : Bool) (m : Nat) : (s.reportPath b m).pending = s.pending := by
  unfold State.reportPath; split_ifs <;> rfl
@[simp] theorem State.reportPath_streamPos (b : Bool) (m : Nat) : (s.reportPath b m).streamPos = s.streamPos := by
  unfold State.reportPath; split_ifs <;> rfl
@[simp] theorem State.reportPath_entropy (b : Bool) (m : Nat) : (s.reportPath b m).entropy = s.entropy := by
  unfold State.reportPath; split_ifs <;> rfl
@[simp] theorem State.reportPath_rdata (b : Bool) (m : Nat) : (s.reportPath b m).rdata = s.rdata := by
  unfold State.reportPath; split_ifs <;> rfl
@[simp] theorem State.reportPath_resp (b : Bool) (m : Nat) : (s.reportPath b m).resp = s.resp := by
  unfold State.reportPath; split_ifs <;> rfl
@[simp] theorem State.reportPath_inputs (b : Bool) (m : Nat) : (s.reportPath b m).inputs = s.inputs := by
  unfold State.reportPath; split_ifs <;> rfl
@[simp] theorem State.reportPath_draws (b : Bool) (m : Nat) : (s.reportPath b m).draws = s.draws := by
  unfold State.reportPath; split_ifs <;> rfl
@[simp] theorem State.reportPath_patience (b : Bool) (m : Nat) : (s.reportPath b m).patience = s.patience := by
  unfold State.reportPath; split_ifs <;> rfl

/-- What `reportPath` leaves in LASTRED. -/
theorem State.reportPath_lastred (b : Bool) (m : Nat) :
    (s.reportPath b m).lastred = if b then .noReduction else if m % 2 = 1 then .montgomery else .barrett := by
  unfold State.reportPath; split_ifs <;> rfl

/-- What `reportPath` leaves in MCONST. -/
theorem State.reportPath_mconst (b : Bool) (m : Nat) :
    (s.reportPath b m).mconst = if !b && m % 2 == 1 then montgomeryConstant m else s.mconst := by
  unfold State.reportPath; split_ifs <;> simp_all

end Sys2Proof.Machine
end

