-- ==== Sys2Proof/Laws/Operands.lean ====
section
/-! SUPPORT. What reading and writing a big register does: the value written is the value read, every other big
register and SIGN bit is left alone. -/

namespace Sys2Proof.Machine

variable {s : State} {i d : RegField} {v : Nat}

/-! ### Words and magnitudes (10_state.md R21, 00_scope.md R9) -/

@[simp] theorem imageWords_length (nw v : Nat) : (imageWords nw v).length = nw := by simp [imageWords]

/-- The first `k` words of the image are the number without its low words. -/
theorem foldl_image_prefix (nw v k : Nat) (hk : k ≤ nw) (hv : v < 2 ^ (32 * nw)) :
    ((List.range k).map fun j => BitVec.ofNat 32 (v >>> (32 * (nw - 1 - j)))).foldl
      (fun acc (w : Word) => acc * 2 ^ 32 + w.toNat) 0 = v / 2 ^ (32 * (nw - k)) := by
  induction k with
  | zero => simpa using (Nat.div_eq_of_lt hv).symm
  | succ k ih =>
    rw [List.range_succ, List.map_append, List.foldl_append, ih (by omega)]
    simp only [List.map_cons, List.map_nil, List.foldl_cons, List.foldl_nil, BitVec.toNat_ofNat,
      Nat.shiftRight_eq_div_pow]
    rw [show nw - 1 - k = nw - (k + 1) by omega, show 32 * (nw - k) = 32 * (nw - (k + 1)) + 32 by omega, Nat.pow_add,
      ← Nat.div_div_eq_div_mul]
    exact Nat.div_add_mod' _ _

/-- The image of a number that fits has that number as its magnitude. -/
@[simp] theorem magnitude_imageWords (nw v : Nat) (hv : v < 2 ^ (32 * nw)) : magnitude (imageWords nw v) = v := by
  simpa [magnitude, imageWords] using foldl_image_prefix nw v nw le_rfl hv

theorem foldl_magnitude_lt (ws : List Word) (acc b : Nat) (h : acc < b) :
    ws.foldl (fun acc w => acc * 2 ^ 32 + w.toNat) acc < b * 2 ^ (32 * ws.length) := by
  induction ws generalizing acc b with
  | nil => simpa using h
  | cons w ws ih =>
    have hw : acc * 2 ^ 32 + w.toNat < b * 2 ^ 32 := by have := w.isLt; omega
    calc _ < b * 2 ^ 32 * 2 ^ (32 * ws.length) := ih _ _ hw
      _ = b * 2 ^ (32 * (w :: ws).length) := by
        rw [mul_assoc, ← pow_add, List.length_cons, show 32 + 32 * ws.length = 32 * (ws.length + 1) by ring]

/-- `0 ≤ Mag(i) < 2^(32·NW)` (10_state.md R21). -/
theorem magnitude_lt (ws : List Word) : magnitude ws < 2 ^ (32 * ws.length) := by
  simpa [magnitude] using foldl_magnitude_lt ws 0 1 (by omega)

/-! ### SIGN bits -/

@[simp] theorem clearSign_getLsbD (sign : BitVec 8) (i : RegField) (k : Nat) :
    (clearSign sign i).getLsbD k = (sign.getLsbD k && decide (k ≠ i.toNat)) := by
  unfold clearSign
  by_cases hk : k < 8
  · by_cases h : k = i.toNat
    · subst h; simp [hk]
    · rcases Nat.lt_or_gt_of_ne h with hlt | hgt
      · simp [hk, h, hlt]
      · have : k - i.toNat ≠ 0 := by omega
        simp [hk, h, Nat.not_lt.2 (Nat.le_of_lt hgt), this]
  · rw [BitVec.getLsbD_of_ge _ _ (by omega), BitVec.getLsbD_of_ge _ _ (by omega)]; rfl

theorem putSign_getLsbD_other (sign : BitVec 8) (i : RegField) (b : Bool) (k : Nat) (h : k ≠ i.toNat) :
    (putSign sign i b).getLsbD k = sign.getLsbD k := by
  unfold putSign
  split
  · by_cases hk : k < 8
    · rcases Nat.lt_or_gt_of_ne h with hlt | hgt
      · simp [hlt]
      · have : k - i.toNat ≠ 0 := by omega
        simp [BitVec.getLsbD_one, this]
    · rw [BitVec.getLsbD_of_ge _ _ (by omega), BitVec.getLsbD_of_ge _ _ (by omega)]
  · simp [h]

/-! ### Register blocks -/

/-- Two different big registers have disjoint blocks (20_memory.md R63). -/
theorem blocks_disjoint (nw : Nat) (h : i ≠ d) :
    wordOffset nw i.toNat 0 + 4 * nw ≤ wordOffset nw d.toNat 0 ∨
      wordOffset nw d.toNat 0 + 4 * nw ≤ wordOffset nw i.toNat 0 := by
  have hne : i.toNat ≠ d.toNat := fun he => h (BitVec.eq_of_toNat_eq he)
  unfold wordOffset
  rcases Nat.lt_or_gt_of_ne hne with hlt | hgt
  · have := Nat.mul_le_mul_right nw (show i.toNat + 1 ≤ d.toNat from hlt)
    rw [Nat.add_mul] at this
    omega
  · have := Nat.mul_le_mul_right nw (show d.toNat + 1 ≤ i.toNat from hgt)
    rw [Nat.add_mul] at this
    omega

theorem State.regWords_length {ws : List Word} (h : s.regWords i = some ws) : ws.length = s.nw :=
  Memory.loadWords_length h

@[simp] theorem State.regWords_writeReg_same : (s.writeReg d v).regWords d = some (imageWords s.nw v) := by
  have h := Memory.loadWords_storeWords_same (m := s.mem) (lo := wordOffset s.nw d.toNat 0) (imageWords s.nw v)
  rw [imageWords_length] at h
  exact h

theorem State.regWords_writeReg_other (h : i ≠ d) : (s.writeReg d v).regWords i = s.regWords i :=
  Memory.loadWords_storeWords_disjoint (by rw [imageWords_length]; exact blocks_disjoint s.nw h)

theorem State.regWords_spoilReg_same (b : Bool) (h : 0 < s.nw) : (s.spoilReg d b).regWords d = none := by
  simp only [State.regWords, State.spoilReg_mem, State.spoilReg_nw, Memory.loadWords]
  rw [Memory.load_forget_same (by omega)]
  rfl

theorem State.regWords_spoilReg_other (b : Bool) (h : i ≠ d) : (s.spoilReg d b).regWords i = s.regWords i :=
  Memory.loadWords_forget_disjoint (blocks_disjoint s.nw h)

/-! ### Values -/

theorem State.signBit_writeReg_same : (s.writeReg d v).signBit d = false := by simp [State.signBit]

theorem State.signBit_writeReg_other (h : i ≠ d) : (s.writeReg d v).signBit i = s.signBit i := by
  have : i.toNat ≠ d.toNat := fun he => h (BitVec.eq_of_toNat_eq he)
  simp [State.signBit, this]

theorem signedValue_false (n : Nat) : signedValue n false = n := by
  unfold signedValue; split <;> simp_all

/-- "`x[i] <- v`" then "`x[i]`" gives `v` (00_scope.md R9, 10_state.md R21, R22). -/
theorem State.val?_writeReg_same (hv : v < 2 ^ (32 * s.nw)) : (s.writeReg d v).val? d = some (v : Int) := by
  simp only [State.val?, State.regWords_writeReg_same, State.signBit_writeReg_same, magnitude_imageWords _ _ hv,
    signedValue_false]

/-- A write leaves the value of every other big register alone. -/
theorem State.val?_writeReg_other (h : i ≠ d) : (s.writeReg d v).val? i = s.val? i := by
  simp only [State.val?, State.regWords_writeReg_other h, State.signBit_writeReg_other h]

/-- A source register reads exactly when all its words are written (10_state.md R47). -/
theorem State.val?_isSome : (s.val? i).isSome = (s.regWords i).isSome := by
  unfold State.val?
  split <;> simp_all

/-- A value is below 2^(32·NW) in magnitude (00_scope.md R8). -/
theorem State.natAbs_val?_lt {x : Int} (h : s.val? i = some x) : x.natAbs < 2 ^ (32 * s.nw) := by
  unfold State.val? at h
  split at h
  · exact absurd h (by simp)
  · next ws hw =>
    obtain rfl := Option.some.inj h
    have hlt := magnitude_lt ws
    rw [State.regWords_length hw] at hlt
    unfold signedValue
    split_ifs <;> simp_all

/-- The bytes outside a register's block are left alone by a write to it. -/
theorem State.readByte_writeReg_outside {a : Nat}
    (h : a < wordOffset s.nw d.toNat 0 ∨ wordOffset s.nw d.toNat 0 + 4 * s.nw ≤ a) :
    (s.writeReg d v).mem.readByte a = s.mem.readByte a := by
  refine Memory.readByte_store_disjoint ?_
  rw [flatMap_wordBytes_length, imageWords_length]
  exact h

/-! ### withSource -/

@[simp] theorem withSource_some {x : Int} (k : Int → Result) (h : s.val? i = some x) : withSource s i k = k x := by
  simp [withSource, h]

@[simp] theorem withSource_none (k : Int → Result) (h : s.val? i = none) :
    withSource s i k = .fault .uninitOperand := by
  simp [withSource, h]

/-- All that reading a source can do: fault on an unwritten word, or go on with the value. -/
theorem withSource_cases (s : State) (i : RegField) (k : Int → Result) :
    (s.val? i = none ∧ withSource s i k = .fault .uninitOperand) ∨
      ∃ x, s.val? i = some x ∧ withSource s i k = k x := by
  cases h : s.val? i with
  | none => exact .inl ⟨rfl, withSource_none k h⟩
  | some x => exact .inr ⟨x, rfl, withSource_some k h⟩

/-- A next state after reading a source comes from its value. -/
theorem withSource_eq_next {k : Int → Result} {t : State} (h : withSource s i k = .next t) :
    ∃ x, s.val? i = some x ∧ k x = .next t := by
  obtain ⟨_, hf⟩ | ⟨x, hx, hk⟩ := withSource_cases s i k
  · exact absurd (hf.symm.trans h) (by simp)
  · exact ⟨x, hx, hk.symm.trans h⟩

end Sys2Proof.Machine
end

