-- ==== Sys2Proof/Laws/PerInstr.lean ====
section
/-! SUPPORT. Family OpcodeRow: the word of a well-formed command matches the command's own row of the opcode map
(30_encoding.md R95), one lemma per constructor. -/

namespace Sys2Proof.Laws.OpcodeRow

/-- The encoding of `i` is selected by a row of R95 that carries `i`'s mnemonic. -/
def Statement (i : Instr) : Prop :=
  i.wellFormed = true → ∃ r ∈ opcodeRows, r.mnemonic = i.mnemonic ∧ r.selects (encode i) = true

/-- A row whose mask and pattern are given by fields selects a packed word when every field does. -/
theorem selects_of_fields (name : String) (pattern mask : Word) (opc : BitVec 8)
    (rd ra rb rc md ma mb mc : RegField) (flags mf : BitVec 8)
    (hm : mask = packFields 0xFF md ma mb mc mf) (hp : pattern = packFields opc 0 0 0 0 0)
    (hd : rd &&& md = 0) (ha : ra &&& ma = 0) (hb : rb &&& mb = 0) (hc : rc &&& mc = 0) (hf : flags &&& mf = 0) :
    OpcodeRow.selects ⟨name, pattern, mask⟩ (packFields opc rd ra rb rc flags) = true := by
  have ho : opc &&& 0xFF = opc := BitVec.and_allOnes
  simp only [OpcodeRow.selects, hm, hp, packFields_and, ho, hd, ha, hb, hc, hf, beq_self_eq_true]

theorem flagsOf_and (b : Bool) : flagsOf b &&& 0xFE#8 = 0 := by cases b <;> decide

theorem nop : Statement .nop := fun _ => by decide

theorem clr (d : RegField) : Statement (.clr d) := fun h =>
  ⟨⟨"CLR", 0x01000000#32, 0xFF8FFFFF#32⟩, by decide, rfl,
    selects_of_fields _ _ _ _ _ _ _ _ 0x8 0xF 0xF 0xF _ 0xFF (by decide) (by decide)
      (isBigReg_and_eight h) rfl rfl rfl rfl⟩

theorem modred (d a c : RegField) : Statement (.modred d a c) := fun h => by
  simp only [Instr.wellFormed, Bool.and_eq_true] at h
  exact ⟨⟨"MODRED", 0x02000000#32, 0xFF88F8FF#32⟩, by decide, rfl,
    selects_of_fields _ _ _ _ _ _ _ _ 0x8 0x8 0xF 0x8 _ 0xFF (by decide) (by decide)
      (isBigReg_and_eight h.1.1) (isBigReg_and_eight h.1.2) rfl (isBigReg_and_eight h.2) rfl⟩

theorem mconst (c : RegField) : Statement (.mconst c) := fun h =>
  ⟨⟨"MCONST", 0x03000000#32, 0xFFFFF8FF#32⟩, by decide, rfl,
    selects_of_fields _ _ _ _ _ _ _ _ 0xF 0xF 0xF 0x8 _ 0xFF (by decide) (by decide)
      rfl rfl rfl (isBigReg_and_eight h) rfl⟩

theorem modsqr (d a c : RegField) : Statement (.modsqr d a c) := fun h => by
  simp only [Instr.wellFormed, Bool.and_eq_true] at h
  exact ⟨⟨"MODSQR", 0x04000000#32, 0xFF88F8FF#32⟩, by decide, rfl,
    selects_of_fields _ _ _ _ _ _ _ _ 0x8 0x8 0xF 0x8 _ 0xFF (by decide) (by decide)
      (isBigReg_and_eight h.1.1) (isBigReg_and_eight h.1.2) rfl (isBigReg_and_eight h.2) rfl⟩

theorem sqrloop (d a c : RegField) (strict : Bool) : Statement (.sqrloop d a c strict) := fun h => by
  simp only [Instr.wellFormed, Bool.and_eq_true] at h
  exact ⟨⟨"SQRLOOP", 0x05000000#32, 0xFF88F8FE#32⟩, by decide, rfl,
    selects_of_fields _ _ _ _ _ _ _ _ 0x8 0x8 0xF 0x8 _ 0xFE (by decide) (by decide)
      (isBigReg_and_eight h.1.1) (isBigReg_and_eight h.1.2) rfl (isBigReg_and_eight h.2) (flagsOf_and strict)⟩

theorem modpow (d a b c : RegField) : Statement (.modpow d a b c) := fun h => by
  simp only [Instr.wellFormed, Bool.and_eq_true] at h
  exact ⟨⟨"MODPOW", 0x06000000#32, 0xFF8888FF#32⟩, by decide, rfl,
    selects_of_fields _ _ _ _ _ _ _ _ 0x8 0x8 0x8 0x8 _ 0xFF (by decide) (by decide)
      (isBigReg_and_eight h.1.1.1) (isBigReg_and_eight h.1.1.2) (isBigReg_and_eight h.1.2)
      (isBigReg_and_eight h.2) rfl⟩

theorem trialdiv (a : RegField) : Statement (.trialdiv a) := fun h =>
  ⟨⟨"TRIALDIV", 0x07000000#32, 0xFFF8FFFF#32⟩, by decide, rfl,
    selects_of_fields _ _ _ _ _ _ _ _ 0xF 0x8 0xF 0xF _ 0xFF (by decide) (by decide)
      rfl (isBigReg_and_eight h) rfl rfl rfl⟩

theorem mrround (a b : RegField) : Statement (.mrround a b) := fun h => by
  simp only [Instr.wellFormed, Bool.and_eq_true] at h
  exact ⟨⟨"MRROUND", 0x08000000#32, 0xFFF88FFF#32⟩, by decide, rfl,
    selects_of_fields _ _ _ _ _ _ _ _ 0xF 0x8 0x8 0xF _ 0xFF (by decide) (by decide)
      rfl (isBigReg_and_eight h.1) (isBigReg_and_eight h.2) rfl rfl⟩

theorem mrtest (a : RegField) (random : Bool) : Statement (.mrtest a random) := fun h =>
  ⟨⟨"MRTEST", 0x09000000#32, 0xFFF8FFFE#32⟩, by decide, rfl,
    selects_of_fields _ _ _ _ _ _ _ _ 0xF 0x8 0xF 0xF _ 0xFE (by decide) (by decide)
      rfl (isBigReg_and_eight h) rfl rfl (flagsOf_and random)⟩

theorem randcand (d : RegField) (blum : Bool) : Statement (.randcand d blum) := fun h =>
  ⟨⟨"RANDCAND", 0x0A000000#32, 0xFF8FFFFE#32⟩, by decide, rfl,
    selects_of_fields _ _ _ _ _ _ _ _ 0x8 0xF 0xF 0xF _ 0xFE (by decide) (by decide)
      (isBigReg_and_eight h) rfl rfl rfl (flagsOf_and blum)⟩

theorem wfchk : Statement .wfchk := fun _ => by decide

end Sys2Proof.Laws.OpcodeRow
end

