-- ==== Sys2Proof/Laws/Step.lean ====
section
/-! SUPPORT. The entropy stream, the small lemmas of the commands' helpers, and what a step can do: one lemma per
event. -/

namespace Sys2Proof.Machine

variable {s t : State}

/-! ### Entropy (10_state.md R45) -/

/-- After taking `n` words the stream goes on where it was left. -/
@[simp] theorem State.streamWord_takeWords (n k : Nat) : (s.takeWords n).streamWord k = s.streamWord (n + k) := by
  simp [State.streamWord, List.getElem?_drop, Nat.add_assoc]

/-- A draw fits its bit length (43_random.md R170). -/
theorem drawBits_lt (stream : Nat → Word) (pos l : Nat) : drawBits stream pos l < 2 ^ l :=
  Nat.mod_lt _ (Nat.two_pow_pos l)

/-! ### The squaring loop (44_squaring.md R183) -/

theorem squareTimes_succ (m : Int) (n : Nat) (y : Int) :
    squareTimes m (n + 1) y = squareTimes m n y * squareTimes m n y % m := by
  induction n generalizing y with
  | zero => rfl
  | succ n ih => exact ih (y * y % m)

/-- One squaring or more leaves a residue. -/
theorem squareTimes_bounds {m : Int} (hm : 0 < m) (n : Nat) (y : Int) :
    0 ≤ squareTimes m (n + 1) y ∧ squareTimes m (n + 1) y < m := by
  rw [squareTimes_succ]
  exact ⟨Int.emod_nonneg _ (by omega), Int.emod_lt_of_pos _ hm⟩

/-! ### Modular power results (41_modexp.md R129) -/

theorem modpowResult_lt (g : Int) (e m : Nat) (hm : 0 < m) : modpowResult g e m < m := by
  unfold modpowResult
  split_ifs
  · omega
  · omega
  · rw [powMod_eq]; exact Nat.mod_lt _ hm

/-! ### Forced bits (43_random.md R171) -/

theorem forceBits_lt {v l : Nat} (blum : Bool) (hl : 4 ≤ l) (hv : v < 2 ^ l) : forceBits v l blum < 2 ^ l := by
  have h1 : 2 ^ (l - 1) < 2 ^ l := Nat.pow_lt_pow_right (by omega) (by omega)
  have h2 : 2 ^ (l - 2) < 2 ^ l := Nat.pow_lt_pow_right (by omega) (by omega)
  have h3 : 2 < 2 ^ l := lt_of_lt_of_le (by decide : 2 < 2 ^ 4) (Nat.pow_le_pow_right (by omega) hl)
  have h := Nat.or_lt_two_pow (Nat.or_lt_two_pow (Nat.or_lt_two_pow hv h1) h2) (show 1 < 2 ^ l by omega)
  unfold forceBits
  cases blum
  · exact h
  · exact Nat.or_lt_two_pow h h3

/-! ### Saturation (10_state.md R46) -/

theorem saturate32_toNat (cnt : Nat) : (saturate32 cnt).toNat = min cnt 0xFFFFFFFF := by
  simp only [saturate32, BitVec.toNat_ofNat]
  omega

/-- `complete` is a completion without error. -/
theorem State.completed_complete (s : State) (cnt : Nat) : Completed s (s.complete cnt) cnt where
  busy := rfl
  done := rfl
  err := rfl
  ovr := rfl
  errcode := rfl
  rngcnt := saturate32_toNat cnt
  pending := rfl

/-! ### What a step can do -/

/-- The engine's turn: idle, an error of decoding, or a command. -/
theorem engineTurn_cases (s : State) :
    (s.pending = none ∧ engineTurn s = .next s) ∨
      (∃ w e, s.pending = some w ∧ decode w = .error e ∧
        engineTurn s = .next (s.raiseError (decodeErrCode e))) ∨
      ∃ w i, s.pending = some w ∧ decode w = .ok i ∧ engineTurn s = exec i s := by
  cases hp : s.pending with
  | none => exact .inl ⟨rfl, by simp [engineTurn, hp]⟩
  | some w =>
    cases hd : decode w with
    | error e => exact .inr (.inl ⟨w, e, rfl, hd, by simp [engineTurn, hp, hd, fail]⟩)
    | ok i => exact .inr (.inr ⟨w, i, rfl, hd, by simp [engineTurn, hp, hd]⟩)

/-- A step is the engine's turn, a host access, or a hardware reset. -/
theorem step_cases (s : State) :
    (s.inputs = [] ∧ step s = engineTurn s) ∨
      (∃ rest, s.inputs = .engine :: rest ∧ step s = engineTurn { s with inputs := rest }) ∨
      (∃ a rest, s.inputs = .bus a :: rest ∧ step s = .next ({ s with inputs := rest }.access a)) ∨
      ∃ rest, s.inputs = .hardReset :: rest ∧ step s = .next { s with inputs := rest }.hardReset := by
  unfold step
  split
  · next h => exact .inl ⟨h, rfl⟩
  · next rest h => exact .inr (.inl ⟨rest, h, rfl⟩)
  · next a rest h => exact .inr (.inr (.inl ⟨a, rest, h, rfl⟩))
  · next rest h => exact .inr (.inr (.inr ⟨rest, h, rfl⟩))

end Sys2Proof.Machine
end

