-- ==== Sys2Proof/Tests/Slice0.lean ====
section
/-! SUPPORT. Small tests, their expected results taken from the spec (spec/95_test_vectors.md V-…, or a rule's text),
and one witness for the hypotheses of each statement. Registers have two words here (NW = 2) unless a test needs
more. -/

namespace Sys2Proof.Tests

open Sys2Proof Sys2Proof.Machine

-- One theorem at a time: each closed evaluation waits for the kernel, and many waiting at once exhaust threads.
set_option Elab.async false

/-! ### Helpers -/

/-- The engine after reset, with registers of two words. -/
def tiny : State := { State.reset with nw := 2 }

/-- Writes the integers `vs` to Bi, B(i+1), …, with their SIGN bits. -/
def load (s : State) : Nat → List Int → State
  | _, [] => s
  | i, v :: vs =>
    let t := s.writeReg (BitVec.ofNat 4 i) v.natAbs
    load { t with sign := putSign t.sign (BitVec.ofNat 4 i) (decide (v < 0)) } (i + 1) vs

/-- Issues the command word `w` and runs it. -/
def issue (w : Nat) (s : State) : Result := step (s.withFetchWord 32 w)

/-- What `f` sees of the next state. -/
def see {α : Type} (r : Result) (f : State → α) : Option α :=
  match r with
  | .next t => some (f t)
  | _ => none

/-- STATUS and ERRCODE, as read. -/
def statusAndError (t : State) : Nat × Nat := (t.status.word.toNat, (errNumber t.errcode).toNat)

theorem next_of_see {r : Result} {p : State → Bool} (h : see r p = some true) : ∃ t, r = .next t ∧ p t = true := by
  cases r <;> simp_all [see]

/-! ### WellFormed: an ill-formed command for each check (30_encoding.md R92) -/

theorem test_wf_clr : (Instr.clr 8).wellFormed = false := by decide
theorem test_wf_modred_d : (Instr.modred 8 0 0).wellFormed = false := by decide
theorem test_wf_modred_a : (Instr.modred 0 9 0).wellFormed = false := by decide
theorem test_wf_modred_c : (Instr.modred 0 0 15).wellFormed = false := by decide
theorem test_wf_mconst : (Instr.mconst 13).wellFormed = false := by decide
theorem test_wf_modsqr_d : (Instr.modsqr 8 0 0).wellFormed = false := by decide
theorem test_wf_modsqr_a : (Instr.modsqr 0 8 0).wellFormed = false := by decide
theorem test_wf_modsqr_c : (Instr.modsqr 0 0 8).wellFormed = false := by decide
theorem test_wf_sqrloop_d : (Instr.sqrloop 8 0 0 false).wellFormed = false := by decide
theorem test_wf_sqrloop_a : (Instr.sqrloop 0 8 0 true).wellFormed = false := by decide
theorem test_wf_sqrloop_c : (Instr.sqrloop 0 0 8 false).wellFormed = false := by decide
theorem test_wf_modpow_d : (Instr.modpow 8 0 0 0).wellFormed = false := by decide
theorem test_wf_modpow_a : (Instr.modpow 0 8 0 0).wellFormed = false := by decide
theorem test_wf_modpow_b : (Instr.modpow 0 0 8 0).wellFormed = false := by decide
theorem test_wf_modpow_c : (Instr.modpow 0 0 0 8).wellFormed = false := by decide
theorem test_wf_trialdiv : (Instr.trialdiv 8).wellFormed = false := by decide
theorem test_wf_mrround_a : (Instr.mrround 8 0).wellFormed = false := by decide
theorem test_wf_mrround_b : (Instr.mrround 0 8).wellFormed = false := by decide
theorem test_wf_mrtest : (Instr.mrtest 8 true).wellFormed = false := by decide
theorem test_wf_randcand : (Instr.randcand 8 true).wellFormed = false := by decide

/-! ### Decoding: words written out as OPC RD RA RB RC FLAGS (30_encoding.md R91, R95) -/

theorem test_decode_nop : decode 0b00000000_0000_0000_0000_0000_00000000#32 = .ok .nop := by rfl
theorem test_decode_clr : decode 0b00000001_0010_0000_0000_0000_00000000#32 = .ok (.clr 2) := by rfl
theorem test_decode_modred : decode 0b00000010_0110_0001_0000_0101_00000000#32 = .ok (.modred 6 1 5) := by rfl
theorem test_decode_mconst : decode 0b00000011_0000_0000_0000_0101_00000000#32 = .ok (.mconst 5) := by rfl
theorem test_decode_modsqr : decode 0b00000100_0010_0111_0000_0011_00000000#32 = .ok (.modsqr 2 7 3) := by rfl
theorem test_decode_sqrloop : decode 0b00000101_0100_0101_0000_0110_00000001#32 = .ok (.sqrloop 4 5 6 true) := by rfl
theorem test_decode_modpow : decode 0b00000110_0000_0001_0010_0011_00000000#32 = .ok (.modpow 0 1 2 3) := by rfl
theorem test_decode_trialdiv : decode 0b00000111_0000_0011_0000_0000_00000000#32 = .ok (.trialdiv 3) := by rfl
theorem test_decode_mrround : decode 0b00001000_0000_0011_0100_0000_00000000#32 = .ok (.mrround 3 4) := by rfl
theorem test_decode_mrtest : decode 0b00001001_0000_0011_0000_0000_00000001#32 = .ok (.mrtest 3 true) := by rfl
theorem test_decode_randcand : decode 0b00001010_0001_0000_0000_0000_00000001#32 = .ok (.randcand 1 true) := by rfl
theorem test_decode_wfchk : decode 0b00001011_0000_0000_0000_0000_00000000#32 = .ok .wfchk := by rfl

/-- V-ENC-2, 3, 5, 6, 9, 12, 13, 15, 16, 22, 26. -/
theorem test_decode_illegal_encodings :
    ([0x00000001#32, 0x00100000#32, 0x01800000#32, 0x01210000#32, 0x03000D00#32, 0x05450603#32, 0x05451600#32,
        0x06812300#32, 0x06012380#32, 0x0B000100#32, 0x0A180000#32].all fun w =>
      match decode w with | .error .illegalEncoding => true | _ => false) = true := by decide +kernel

/-- V-ENC-23 to 25. -/
theorem test_decode_illegal_opcodes :
    ([0x0C000000#32, 0xFF000000#32, 0xFFFFFFFF#32].all fun w =>
      match decode w with | .error .illegalOpcode => true | _ => false) = true := by decide +kernel

/-- R99: "`MODPOW B0, B1, B2, B3` = 0x06012300", "`SQRLOOP B4, B5, B6, STRICT` = 0x05450601". -/
theorem test_encode_examples :
    encode (.modpow 0 1 2 3) = 0x06012300#32 ∧ encode (.sqrloop 4 5 6 true) = 0x05450601#32 := by decide

/-- A table word runs as the very next step: CLR B2 as the first command after reset, and V-ENC-23. -/
theorem test_first_command_after_reset :
    see (step (State.reset.withFetchWord 32 0x0B000000)) statusAndError = some (0x02, 0) ∧
      see (step (State.reset.withFetchWord 32 0x0C000000)) statusAndError = some (0x06, 1) := by decide +kernel

/-! ### The bus and the life of a command -/

/-- V-BUS-1, V-BUS-2. -/
theorem test_id_and_cfg :
    (State.reset.access (.read 0x000#17 0b1111#4)).rdata = 0x4D4B5701#32 ∧
      (State.reset.access (.read 0x038#17 0b1111#4)).rdata = 0x00080400#32 := by decide

/-- V-BUS-3, V-BUS-4. -/
theorem test_misaligned_and_narrow :
    (tiny.access (.read 0x002#17 0b1111#4)).resp = .slverr ∧
      tiny.access (.write 0x018#17 0b0001#4 7#32) = { tiny with resp := .slverr } := by decide

/-- V-BUS-6, V-BUS-8. -/
theorem test_sign_keeps_eight_bits_and_id_ignores_writes :
    ((tiny.access (.write 0x014#17 0b1111#4 0x1FF#32)).access (.read 0x014#17 0b1111#4)).rdata = 0xFF#32 ∧
      tiny.access (.write 0x000#17 0b1111#4 0x12345678#32) = tiny := by decide

/-- V-BUS-7: the last two words of B1 hold the five bytes. -/
theorem test_byte_string_in_a_register :
    let s := (tiny.access (.write 0x10008#17 0b1111#4 0x00000001#32)).access (.write 0x1000C#17 0b1111#4 0x02030405#32)
    s.val? 1 = some 0x0102030405 ∧ s.mem.readByte 0x1000B = some 0x01#8 ∧ s.mem.readByte 0x1000F = some 0x05#8 := by
  decide +kernel

/-- V-BUS-9, V-BUS-10. -/
theorem test_status_write_one_clears :
    ({ tiny with status := ⟨false, true, true, false, false⟩ }.access
        (.write 0x008#17 0b1111#4 0xFFFFFFFF#32)).status.word = 0x00#32 ∧
      ({ tiny with status := ⟨false, true, false, true, false⟩ }.access
        (.write 0x008#17 0b1111#4 0x2#32)).status.word = 0x08#32 := by decide

/-- V-LC-1 and V-LC-6: STATUS at acceptance and after completion. -/
theorem test_nop_life :
    (({ tiny with status := ⟨false, true, false, true, false⟩ }.accept 0#32).status.word = 0x01#32) ∧
      see (issue 0x00000000 { tiny with status := ⟨false, false, false, false, true⟩ }) statusAndError =
        some (0x12, 0) := by decide

/-- V-LC-3, V-LC-4: guarded writes while BUSY = 1. -/
theorem test_guarded_writes :
    ((tiny.accept 1#32).access (.write 0x00C#17 0b1111#4 2#32)).pending = some 1#32 ∧
      ((tiny.accept 1#32).access (.write 0x10008#17 0b1111#4 5#32)).mem = [] ∧
      ((tiny.accept 1#32).access (.write 0x10008#17 0b1111#4 5#32)).status.ovr = true := by decide

/-- V-LC-5: a RAM read while BUSY = 1 is a free value. -/
theorem test_busy_ram_read :
    ((tiny.accept 1#32).access (.read 0x10008#17 0b1111#4)).rdata = Config.freeWord 0 := by rfl

/-- V-IRQ-1, V-IRQ-3, V-IRQ-4. -/
theorem test_irq :
    see (issue 0x00000000 { tiny with ctrl := ⟨true, false⟩ }) (fun t =>
        (t.irq, (t.access (.write 0x008#17 0b1111#4 0x16#32)).irq)) = some (true, false) ∧
      see (issue 0x0C000000 { tiny with ctrl := ⟨false, true⟩ }) State.irq = some true ∧
      see (issue 0x0C000000 { tiny with ctrl := ⟨true, true⟩ }) (fun t =>
        (t.access (.write 0x008#17 0b1111#4 0x2#32)).irq) = some true := by decide

/-- V-RST-1. -/
theorem test_soft_reset :
    let s := { load tiny 1 [5] with
      ctrl := ⟨true, true⟩
      wf := 384#32
      sign := 0x05#8
      mconst := 0x28B130EF#32 }
    let t := s.access (.write 0x004#17 0b1111#4 0x7#32)
    t.ctrl.word = 0 ∧ t.wf = 0 ∧ t.mconst = 0 ∧ t.sign = 0x05#8 ∧ t.mem = s.mem := by decide +kernel

/-- V-RST-2: `SQRLOOP B2, B1, B0` abandoned. -/
theorem test_soft_reset_while_busy :
    let t := ((load tiny 0 [209, 5, 1]).accept 0x05210000#32).access (.write 0x004#17 0b1111#4 0x1#32)
    t.status.word = 0 ∧ t.regWords 2 = none ∧ t.regWords 0 = some [0#32, 209#32] ∧ t.regWords 1 = some [0#32, 5#32] := by decide +kernel

/-! ### The commands, at most two tests each -/

/-- V-GEN-2. -/
theorem test_clr :
    see (issue 0x01200000 (load tiny 2 [-0x1234])) (fun t => (t.val? 2, t.sign.toNat)) = some (some 0, 0) := by
  decide +kernel

/-- V-GEN-3, V-GEN-4: CLR initialises a register; reading an unwritten one faults. -/
theorem test_clr_initialises :
    see (issue 0x01500000 tiny) (fun t => t.regWords 5) = some (some [0, 0]) ∧
      (match issue 0x04050100 tiny with | .fault .uninitOperand => true | _ => false) = true := by decide +kernel

/-- V-MC-7 and V-MC-16. -/
theorem test_mconst :
    see (issue 0x03000000 (load tiny 0 [497])) (fun t => t.mconst.toNat) = some 0x28B130EF ∧
      see (issue 0x03000000 (load tiny 0 [50])) statusAndError = some (0x06, 6) := by decide +kernel

/-- V-MC-17: the sign check comes before the parity check. -/
theorem test_mconst_sign_first :
    see (issue 0x03000000 (load tiny 0 [-4])) statusAndError = some (0x06, 3) := by decide +kernel

/-- V-RED-1 and V-RED-9. -/
theorem test_modred :
    see (issue 0x02200100 (load tiny 0 [-7, 5])) (fun t => (t.val? 2, t.lastred, t.winsz.toNat)) =
        some (some 3, .barrett, 0) ∧
      see (issue 0x02200100 (load tiny 0 [5, 0])) statusAndError = some (0x06, 4) := by decide +kernel

/-- V-RED-8: a source that is the modulus and the destination; V-RED-10. -/
theorem test_modred_same_register :
    see (issue 0x02000000 (load tiny 0 [9])) (fun t => t.val? 0) = some (some 0) ∧
      see (issue 0x02200100 (load tiny 0 [5, -3])) statusAndError = some (0x06, 3) := by decide +kernel

/-- V-SQ-2 and V-SQ-6. -/
theorem test_modsqr :
    see (issue 0x04200100 (load tiny 0 [-5, 209])) (fun t => (t.val? 2, t.lastred, t.mconst.toNat)) =
        some (some 25, .montgomery, 0xCDC7A7CF) ∧
      see (issue 0x04200100 (load tiny 0 [7, 10])) (fun t => (t.val? 2, t.lastred, t.mconst.toNat)) =
        some (some 9, .barrett, 0) := by decide +kernel

/-- V-SQ-4. -/
theorem test_modsqr_two_words :
    see (issue 0x04200100 (load tiny 0 [2 ^ 40, 2 ^ 32 + 1])) (fun t => (t.val? 2, t.mconst.toNat)) =
      some (some 65536, 0xFFFFFFFF) := by decide +kernel

/-- V-PW-1 and V-PW-17. -/
theorem test_modpow :
    see (issue 0x06301200 (load tiny 0 [4, 13, 497])) (fun t => (t.val? 3, t.lastred, t.winsz.toNat)) =
        some (some 445, .montgomery, 1) ∧
      see (issue 0x06301200 (load tiny 0 [2, -1, -7])) statusAndError = some (0x06, 3) := by decide +kernel

/-- V-PW-12 and V-PW-2. -/
theorem test_modpow_trivial_and_even :
    see (issue 0x06301200 (load tiny 0 [0, 0, 7])) (fun t => (t.val? 3, t.lastred, t.winsz.toNat)) =
        some (some 1, .noReduction, 0) ∧
      see (issue 0x06301200 (load tiny 0 [3, 200, 50])) (fun t => (t.val? 3, t.lastred, t.winsz.toNat)) =
        some (some 1, .barrett, 2) := by decide +kernel

/-- V-TD-7, V-TD-9 and V-TD-12. -/
theorem test_trialdiv :
    see (issue 0x07000000 (load tiny 0 [1021])) statusAndError = some (0x0A, 0) ∧
      see (issue 0x07000000 (load tiny 0 [1031])) statusAndError = some (0x0A, 0) ∧
      see (issue 0x07000000 (load tiny 0 [1042441])) statusAndError = some (0x02, 0) := by decide +kernel

/-- V-TD-1 and V-TD-15. -/
theorem test_trialdiv_edges :
    see (issue 0x07000000 (load tiny 0 [0])) statusAndError = some (0x02, 0) ∧
      see (issue 0x07000000 (load tiny 0 [-5])) statusAndError = some (0x06, 7) := by decide +kernel

/-- V-MR-1, V-MR-2 and V-MR-20. -/
theorem test_mrround :
    see (issue 0x08001000 (load tiny 0 [221, 174])) statusAndError = some (0x0A, 0) ∧
      see (issue 0x08001000 (load tiny 0 [221, 137])) statusAndError = some (0x02, 0) ∧
      see (issue 0x08001000 (load tiny 0 [15, -1])) (fun t => (t.status.result, t.mrrounds.toNat)) = some (true, 1) := by
  decide +kernel

/-- V-MR-7 and V-MR-23. -/
theorem test_mrround_edges :
    see (issue 0x08001000 (load tiny 0 [3, 3])) statusAndError = some (0x02, 0) ∧
      see (issue 0x08001000 (load tiny 0 [4, 3])) statusAndError = some (0x06, 7) := by decide +kernel

/-- V-MT-8: a base is rejected and another drawn. -/
theorem test_mrtest :
    see (issue 0x09000001
        { load tiny 0 [49171] with cert := 4#32, entropy := [0x00010002#32, 0x0000FFFF#32, 0x00000003#32] })
      (fun t => (t.status.result, t.mrrounds.toNat, t.rngcnt.toNat, t.entropy)) = some (true, 2, 3, []) := by
  decide +kernel

/-- V-MT-2 and V-MT-6. -/
theorem test_mrtest_rejects :
    see (issue 0x09000000 { load tiny 0 [1333603] with cert := 2#32, entropy := [2#32] })
        (fun t => (t.status.result, t.mrrounds.toNat, t.rngcnt.toNat)) = some (false, 1, 1) ∧
      see (issue 0x09000000 { load tiny 0 [2047] with cert := 100#32 })
        (fun t => (t.status.result, t.mrrounds.toNat, t.rngcnt.toNat)) = some (false, 0, 0) := by decide +kernel

/-- V-RND-4 and V-RND-12. -/
theorem test_randcand :
    see (issue 0x0A200001 { tiny with nbits := 40#32, entropy := [0x12345678#32, 0x9ABCDEF0#32] })
        (fun t => (t.val? 2, t.rngcnt.toNat)) = some (some 0xF89ABCDEF3, 2) ∧
      see (issue 0x0A200001 { tiny with nbits := 33#32, entropy := [0xFFFFFFFE#32, 0x12345678#32] })
        (fun t => (t.val? 2, t.rngcnt.toNat)) = some (some 0x19234567B, 2) := by decide +kernel

/-- V-RND-15 and V-RND-17. -/
theorem test_randcand_bitlen :
    see (issue 0x0A200000 { tiny with nbits := 3#32 }) statusAndError = some (0x06, 10) ∧
      see (issue 0x0A200000 { tiny with nbits := 65#32 }) statusAndError = some (0x06, 10) := by decide +kernel

/-- V-WF-5, V-WF-10 and V-WF-17. -/
theorem test_wfchk :
    see (issue 0x0B000000 { tiny with wf := 5#32 }) (fun t => (t.status.result, t.wfsug.toNat)) = some (false, 4) ∧
      see (issue 0x0B000000 { tiny with wf := 384#32 }) (fun t => (t.status.result, t.wfsug.toNat)) =
        some (true, 384) ∧
      see (issue 0x0B000000 { tiny with wf := 0xA0000001#32 }) (fun t => (t.status.result, t.wfsug.toNat)) =
        some (false, 0xC0000000) := by decide +kernel

/-- V-SQR-2 and V-SQR-18. -/
theorem test_sqrloop :
    see (issue 0x05200100 { load tiny 0 [2, 77] with wf := 2#32 }) (fun t => (t.val? 2, t.lastred)) =
        some (some 25, .montgomery) ∧
      see (issue 0x05200101 { load tiny 0 [3, 209] with wf := 5#32 }) (fun t => (statusAndError t, t.wfsug.toNat)) =
        some ((0x06, 9), 0) := by decide +kernel

/-- V-SQR-13 and V-SQR-17. -/
theorem test_sqrloop_strict :
    see (issue 0x05200101 { load { tiny with nw := 40 } 0 [3, 2 ^ 1272 + 1] with wf := 2#32 }) (fun t => t.val? 2) =
        some (some 6561) ∧
      see (issue 0x05200101 { load { tiny with nw := 40 } 0 [3, 2 ^ 1279 - 1] with wf := 5#32 })
        (fun t => (statusAndError t, t.wfsug.toNat)) = some ((0x06, 8), 4) := by decide +kernel

/-! ### Witnesses: for each statement with hypotheses, states and operands that meet them -/

theorem witness_DecodeOfEncodeIsTheCommand : (Instr.modpow 7 0 7 0).wellFormed = true := by decide

theorem witness_EncodeOfDecodeIsTheWord : decode 0x05450601#32 = .ok (.sqrloop 4 5 6 true) := by rfl

/-- A reserved opcode; the last defined opcode with an illegal and with a legal word; a word with field 7. -/
theorem witness_DecodingChecksInOrder :
    opcField 0x0C000000#32 > 0x0B ∧ (opcField 0x0B000100#32 ≤ 0x0B ∧ ¬R96Legal 0x0B000100#32) ∧
      (opcField 0x0B000000#32 ≤ 0x0B ∧ R96Legal 0x0B000000#32) ∧
      (opcField 0x06777700#32 ≤ 0x0B ∧ R96Legal 0x06777700#32) ∧ ¬R96Legal 0x06877700#32 := by decide +kernel

theorem witness_DecodingChecksInOrder_error :
    (tiny.accept 0x01800000#32).pending = some 0x01800000#32 ∧ decode 0x01800000#32 = .error .illegalEncoding :=
  ⟨rfl, rfl⟩

theorem witness_StepRunsThePendingCommand :
    ((tiny.accept 0#32).pending = some 0#32 ∧ (tiny.accept 0#32).inputs = []) ∧
      (tiny.withFetchWord 32 0).inputs = .engine :: [] ∧ decodeTableWord 32 0x01200000 = some (.clr 2) :=
  ⟨⟨rfl, rfl⟩, rfl, rfl⟩

theorem witness_OtherEventsTakeOneStepEach :
    { tiny with inputs := [.bus (.read 0 15), .hardReset] }.inputs = .bus (.read 0 15) :: [.hardReset] ∧
      { tiny with inputs := [.hardReset] }.inputs = .hardReset :: [] ∧ (tiny.pending = none ∧ tiny.inputs = []) ∧
      { tiny with inputs := [.engine] }.inputs = .engine :: [] :=
  ⟨rfl, rfl, ⟨rfl, rfl⟩, rfl⟩

/-- An idle engine: CmdWriteWhileIdleIsAccepted and ScalarWritesWhileIdleAreStored. -/
theorem witness_CmdWriteWhileIdleIsAccepted : tiny.status.busy = false := rfl

theorem witness_ScalarWritesWhileIdleAreStored : { tiny with wf := 5#32 }.status.busy = false := rfl

theorem witness_IllegalWordCompletesWithItsError :
    (tiny.accept 0x0C000000#32).pending = some 0x0C000000#32 ∧ ∀ i, decode 0x0C000000#32 ≠ .ok i :=
  ⟨rfl, fun _ h => nomatch h⟩

/-- RANDCAND with NBITS = 0. -/
theorem witness_ErrorsWriteNothingElse :
    (tiny.accept 0x0A100001#32).status.err = false ∧
      ∃ t, engineTurn (tiny.accept 0x0A100001#32) = .next t ∧ t.status.err = true :=
  ⟨rfl, next_of_see (p := fun t => t.status.err) (by decide)⟩

/-- An unwritten source, and no source at all. -/
theorem witness_UnwrittenSourceIsTheOnlyFault :
    tiny.operandsReady (.mconst 0) = false ∧ tiny.operandsReady (.clr 0) = true ∧
      (load tiny 0 [5, 209]).operandsReady (.modsqr 7 0 1) = true := by decide +kernel

/-- A misaligned word access; a narrow aligned one. -/
theorem witness_MisalignedOrNarrowAccessIsRefused :
    (0x00002#17).toNat % 4 ≠ 0 ∧ (0x00018#17).toNat % 4 = 0 ∧ (0b0111#4 : BitVec 4) ≠ 0b1111#4 := by decide

/-- The first and last reserved offsets below the RAM, the first and last above it, and a read-only CSR. -/
theorem witness_ReservedAndReadOnlyOffsetsIgnoreWrites :
    ([0x00040#17, 0x0FFFC#17, 0x10040#17, 0x1FFFC#17].all fun off =>
        off.toNat % 4 == 0 && decide (0x40 ≤ off.toNat) &&
          (decide (off.toNat < 0x10000) || decide (0x10000 + 32 * tiny.nw ≤ off.toNat))) = true ∧
      0x03C#17 ∈ [0x000#17, 0x010#17, 0x024#17, 0x028#17, 0x02C#17, 0x030#17, 0x034#17, 0x038#17, 0x03C#17] := by
  decide

/-- CMD, NBITS, and the first and last words of the RAM, while BUSY = 1. -/
theorem witness_GuardedWritesWhileBusyAreDropped :
    (tiny.accept 0#32).status.busy = true ∧
      ([0x00C#17, 0x020#17, 0x10000#17, 0x1003C#17].all fun off =>
        off.toNat % 4 == 0 && (decide (off ∈ [0x00C#17, 0x014#17, 0x018#17, 0x01C#17, 0x020#17]) ||
          (decide (0x10000 ≤ off.toNat) && decide (off.toNat < 0x10000 + 32 * (tiny.accept 0#32).nw)))) = true := by
  decide

/-- The first and the last word of the RAM, and another word and bytes beside it. -/
theorem witness_RamReadGivesTheLastWrite :
    tiny.status.busy = false ∧
      ([0x10000#17, 0x1003C#17].all fun off =>
        off.toNat % 4 == 0 && decide (0x10000 ≤ off.toNat) && decide (off.toNat < 0x10000 + 32 * tiny.nw)) = true ∧
      (0x10004 % 4 = 0 ∧ 0x10004 ≠ (0x10000#17).toNat) ∧ (0x10000#17).toNat + 4 ≤ 0x10004 := by decide

/-- A written word while BUSY = 1; an unwritten word while idle. -/
theorem witness_BusyOrUnwrittenRamReadsAreFree :
    ((load tiny 0 [5]).accept 0#32).status.busy = true ∧ tiny.mem.loadWord (0x1003C#17).toNat = none ∧
      (0x1003C#17).toNat % 4 = 0 ∧ 0x10000 ≤ (0x1003C#17).toNat ∧ (0x1003C#17).toNat < 0x10000 + 32 * tiny.nw := by
  decide +kernel

/-- A full register, and the five bytes of V-BUS-7. -/
theorem witness_ByteImageIsTheBigEndianInteger :
    [1#8, 2#8, 3#8, 4#8, 5#8, 6#8, 7#8, 8#8].length ≤ 4 * 2 ∧ [1#8, 2#8, 3#8, 4#8, 5#8].length ≤ 4 * 2 := by decide

/-- Zero with its SIGN bit set, a negative and a positive value. -/
theorem witness_ValueOfARegister :
    (load tiny 0 [-5, 5]).regWords 0 = some [0#32, 5#32] ∧ (load tiny 0 [-5, 5]).signBit 0 = true ∧
      (load tiny 0 [-5, 5]).regWords 1 = some [0#32, 5#32] ∧ (load tiny 0 [-5, 5]).signBit 1 = false ∧
      { load tiny 0 [0] with sign := 1#8 }.regWords 0 = some [0#32, 0#32] := by decide +kernel

theorem witness_HardResetClearsRegistersAndRam : 0 < tiny.nw ∧ (Instr.mconst 0).sources ≠ [] := by decide

/-- Each clause: bit 0 clear and set; idle; abandoning NOP; abandoning `CLR B7`. -/
theorem witness_SoftResetKeepsRamAndSign :
    0 < tiny.nw ∧ (0x6#32).getLsbD 0 = false ∧ (0x7#32).getLsbD 0 = true ∧ tiny.pending = none ∧
      ((tiny.accept 0#32).pending = some 0#32 ∧ decode 0#32 = .ok .nop ∧ Instr.destination .nop = none) ∧
      ((tiny.accept 0x01700000#32).pending = some 0x01700000#32 ∧ decode 0x01700000#32 = .ok (.clr 7) ∧
        (Instr.clr 7).destination = some 7 ∧ (6 : RegField) ≠ 7) ∧
      inDestination 2 (.clr 7) 0x10037 = false ∧ inDestination 2 (.clr 7) 0x10038 = true := by
  refine ⟨by decide, by decide, by decide, rfl, ⟨rfl, rfl, rfl⟩, ⟨rfl, rfl, rfl, by decide⟩, by decide, by decide⟩

theorem witness_InterruptFollowsDoneAndErr : Completed tiny (tiny.complete 0) 0 ∧ (tiny.complete 0).ctrl = tiny.ctrl :=
  ⟨⟨rfl, rfl, rfl, rfl, rfl, rfl, rfl⟩, rfl⟩

/-- For each opcode, a matching word; the tests above hold words of defined opcodes that match no row. -/
theorem witness_EncodedAs :
    ([(0x00000000#32, 0x00#8), (0x01700000#32, 0x01#8), (0x02770700#32, 0x02#8), (0x03000700#32, 0x03#8),
        (0x04770700#32, 0x04#8), (0x05770701#32, 0x05#8), (0x06777700#32, 0x06#8), (0x07070000#32, 0x07#8),
        (0x08077000#32, 0x08#8), (0x09070001#32, 0x09#8), (0x0A700001#32, 0x0A#8), (0x0B000000#32, 0x0B#8)].all
      fun p => opcField p.1 == p.2 && opcodeRows.any fun r => r.selects p.1) = true := by decide +kernel

/-- m = 0, m = −3, m = 50 (even), m = 1 and m = 497. -/
theorem witness_MconstGivesTheMontgomeryConstant :
    ([0, -3, 50, 1, 497].all fun m => (load tiny 7 [m]).val? 7 == some m) = true := by decide +kernel

/-- m = 0, m = −3, and m = 1 with x negative, zero and positive. -/
theorem witness_ModredGivesTheFloorModulus :
    ([(5, 0), (5, -3), (-7, 1), (0, 9), (2 ^ 63, 5)].all fun p =>
      (load tiny 0 [p.1, p.2]).val? 0 == some p.1 && (load tiny 0 [p.1, p.2]).val? 1 == some p.2) = true := by
  decide +kernel

/-- m = 0, m = 1 (trivial), m odd, m even. -/
theorem witness_ModsqrGivesTheSquareModulo :
    ([(5, 0), (5, 1), (-5, 209), (7, 10)].all fun p =>
      (load tiny 0 [p.1, p.2]).val? 0 == some p.1 && (load tiny 0 [p.1, p.2]).val? 1 == some p.2) = true := by
  decide +kernel

/-- m = 0; e = −1; m = 1; e = 0; m odd; m even. -/
theorem witness_ModpowGivesThePowerModulo :
    ([(2, 10, 0), (2, -1, 7), (5, 0, 1), (0, 0, 7), (-2, 3, 7), (3, 200, 50)].all fun p =>
      (load tiny 0 [p.1, p.2.1, p.2.2]).val? 0 == some p.1 && (load tiny 0 [p.1, p.2.1, p.2.2]).val? 1 == some p.2.1 &&
        (load tiny 0 [p.1, p.2.1, p.2.2]).val? 2 == some p.2.2) = true := by
  decide +kernel

/-- R125's thresholds: both ends of each row. -/
theorem witness_WindowWidthsFollowTheTable :
    [1, 7, 8, 25, 26, 81, 82, 241, 242, 673, 674, 1793, 1794].map (fun l => (windowWidth l).toNat) =
      [1, 1, 2, 2, 3, 3, 4, 4, 5, 5, 6, 6, 7] := by decide

/-- One candidate per verdict. -/
theorem witness_ClassifyIsRight :
    classify 2 = .prime ∧ classify 1021 = .prime ∧ classify 1 = .composite ∧ classify 1042441 = .composite ∧
      classify 1031 = .undecided := by decide +kernel

/-- n = −5 and n = 0. -/
theorem witness_TrialdivTestsSmallFactors :
    (load tiny 0 [-5]).val? 0 = some (-5) ∧ (load tiny 0 [0]).val? 0 = some 0 := by decide +kernel

theorem witness_PrimesPassEveryRound : Nat.Prime 13 ∧ 13 % 2 = 1 ∧ ¬13 ∣ 12 := by norm_num

/-- n = 2, n = 4 (errors) and n = 3 (the least candidate), n = 221. -/
theorem witness_MrroundReportsOneRound :
    ([(2, 1), (4, 3), (3, 2), (221, 174)].all fun p =>
      (load tiny 0 [p.1, p.2]).val? 0 == some p.1 && (load tiny 0 [p.1, p.2]).val? 1 == some p.2) = true := by
  decide +kernel

/-- R154's rows at their ends (V-RC-1 to 4, 8, 9). -/
theorem witness_RoundCountsFollowTheTable :
    [(100, 1024), (100, 1023), (100, 512), (100, 511), (100, 256), (100, 255), (99, 1024), (101, 1024)].map
        (fun p => mrRounds p.1 p.2 true) = [4, 8, 8, 16, 16, 50, 4, 5] := by decide

/-- The engine with 1031 in B0, CERT = 1 and the base 2 next. -/
def oneRound : State := { load tiny 0 [1031] with cert := 1#32, entropy := [2#32] }

theorem oneRound_base : drawBits oneRound.streamWord 0 (bitlen 1031) = 2 := by decide +kernel

theorem oneRound_picks : PicksBase oneRound.streamWord 1031 0 2 1 := by
  have h := PicksBase.accept (stream := oneRound.streamWord) (n := 1031) 0 (by rw [oneRound_base]; decide)
  rw [oneRound_base] at h
  exact h

/-- Each clause: n negative, composite, prime, and undecided with the loops' outcome. -/
theorem witness_MrtestFollowsTheLoops :
    ((load tiny 0 [-5]).val? 0 = some (-5) ∧ (load tiny 0 [0]).val? 0 = some 0 ∧ classify 0 = .composite ∧
      (load tiny 0 [2]).val? 0 = some 2 ∧ classify 2 = .prime) ∧
      (oneRound.val? 0 = some 1031 ∧ classify 1031 = .undecided) ∧
      RunsRounds oneRound.streamWord 1031 (mrRounds oneRound.cert.toNat (bitlen 1031) false) 0 0 ⟨true, 1, 1⟩ := by
  refine ⟨by decide +kernel, by decide +kernel, ?_⟩
  rw [show mrRounds oneRound.cert.toNat (bitlen 1031) false = 1 by decide +kernel]
  exact .passed 0 0 0 2 1 _ oneRound_picks (by decide +kernel) (.finished 1 1)

theorem witness_MrtestNeverRejectsAPrime :
    { load tiny 0 [3] with status := ⟨true, false, false, false, false⟩ }.val? 0 = some ((3 : Nat) : Int) ∧
      Nat.Prime 3 ∧
      ∃ t, exec (.mrtest 0 false) { load tiny 0 [3] with status := ⟨true, false, false, false, false⟩ } = .next t ∧
        (!t.status.busy) = true :=
  ⟨by decide +kernel, by norm_num, next_of_see (p := fun t => !t.status.busy) (by decide +kernel)⟩

/-- One draw of 0 in the engine's turn (V-MT-13). -/
theorem witness_MrtestWaitsForABase :
    let s := { oneRound with entropy := [0#32], patience := 1 }
    s.val? 0 = some ((1031 : Nat) : Int) ∧ classify 1031 = .undecided ∧ 0 < mrRounds s.cert.toNat (bitlen 1031) false ∧
      ∀ j < s.patience,
        ¬(2 ≤ drawBits s.streamWord (j * wordsOf (bitlen 1031)) (bitlen 1031) ∧
          drawBits s.streamWord (j * wordsOf (bitlen 1031)) (bitlen 1031) ≤ 1031 - 2) := by
  decide +kernel

theorem witness_PatienceNeverChangesAnOutcome :
    1 ≤ 2 ∧ mrLoop oneRound.streamWord 1031 1 1 0 0 = some ⟨true, 1, 1⟩ := by decide +kernel

/-- NBITS = 3, 32·NW + 1 (errors), 4 and 32·NW. -/
theorem witness_RandcandForcesBits :
    { tiny with nbits := 3#32 }.nbits.toNat < 4 ∧ 32 * tiny.nw < { tiny with nbits := 65#32 }.nbits.toNat ∧
      4 ≤ { tiny with nbits := 4#32 }.nbits.toNat ∧ { tiny with nbits := 64#32 }.nbits.toNat ≤ 32 * tiny.nw := by
  decide

theorem witness_CandidatesMakeExactProducts : 4 ≤ 4 ∧ 4 ≤ 5 ∧ 0 < 2 ^ 4 ∧ 31 < 2 ^ 5 := by decide

/-- The bounds of V, and a tie: 5 lies as near to 6 as to 4. -/
theorem witness_NearestWorkfactorIsNearest :
    isWorkfactor 2#32 = true ∧ isWorkfactor 0xC0000000#32 = true ∧ isWorkfactor 6#32 = true ∧
      ((5 : Int) - (nearestWorkfactor 5#32).toNat).natAbs = ((5 : Int) - (6#32).toNat).natAbs := by decide +kernel

/-- Each clause: m = 0; strict with 209; strict, long, with WF = 5; strict, long, with WF = 2; not strict. -/
theorem witness_SqrloopSquaresWfPlusOneTimes :
    (load tiny 0 [3, 0]).val? 1 = some 0 ∧ (load tiny 0 [3, 209]).val? 1 = some 209 ∧ bitlen 209 < 1273 ∧
      1273 ≤ bitlen (2 ^ 1272 + 1) ∧ isWorkfactor 5#32 = false ∧ isWorkfactor 2#32 = true ∧
      (load { tiny with nw := 40 } 0 [3, 2 ^ 1272 + 1]).val? 1 = some (2 ^ 1272 + 1) := by decide +kernel

theorem witness_SqrloopRunsChain :
    (load tiny 0 [209, 5]).val? 1 = some 5 ∧ (load tiny 0 [209, 5]).val? 0 = some 209 ∧ (3 : RegField) ≠ 0 ∧
      ∃ t, exec (.sqrloop 3 1 0 false) (load tiny 0 [209, 5]) = .next t ∧ t.status.done = true :=
  ⟨by decide +kernel, by decide +kernel, by decide, next_of_see (p := fun t => t.status.done) (by decide +kernel)⟩

/-- A command with a destination and one without; a byte just below and just above B2's block. -/
theorem witness_CommandsWriteOnlyTheNamedDestination :
    (∃ t, exec (.clr 2) tiny = .next t ∧ t.status.done = true) ∧ inDestination tiny.nw (.clr 2) 0x1000F = false ∧
      inDestination tiny.nw (.clr 2) 0x10018 = false ∧ (Instr.clr 2).destination ≠ some 3 ∧
      Instr.nop.destination = none ∧ ∃ t, exec .nop tiny = .next t ∧ t.status.done = true :=
  ⟨next_of_see (p := fun t => t.status.done) (by decide +kernel), by decide, by decide, by decide, rfl,
    next_of_see (p := fun t => t.status.done) (by decide +kernel)⟩

theorem witness_CommandsLeaveHostRegistersAlone :
    (∃ t, exec .wfchk tiny = .next t ∧ t.status.done = true) ∧ (∀ a random, Instr.wfchk ≠ .mrtest a random) ∧
      ∀ d blum, Instr.wfchk ≠ .randcand d blum :=
  ⟨next_of_see (p := fun t => t.status.done) (by decide +kernel), by simp, by simp⟩

theorem witness_InformationalCsrsHaveTheirWriters :
    (∃ t, exec .nop tiny = .next t ∧ t.status.done = true) ∧
      Instr.nop.mnemonic ∉ ["TRIALDIV", "MRROUND", "MRTEST", "WFCHK"] ∧
      Instr.nop.mnemonic ∉ ["MCONST", "MODSQR", "SQRLOOP", "MODPOW"] ∧ Instr.nop.mnemonic ∉ ["RANDCAND", "MRTEST"] :=
  ⟨next_of_see (p := fun t => t.status.done) (by decide +kernel), by decide, by decide, by decide⟩

/-- Two states that differ in B3 and its SIGN bit, and agree on MODSQR's sources B0 and B1. -/
theorem witness_CommandsReadOnlyTheNamedSources :
    ((Instr.modsqr 2 0 1).sources.all fun r =>
      (load tiny 0 [5, 209, 0, -1]).regWords r == (load tiny 0 [5, 209]).regWords r &&
        (load tiny 0 [5, 209, 0, -1]).signBit r == (load tiny 0 [5, 209]).signBit r) = true ∧
      (load tiny 0 [5, 209, 0, -1]).mem ≠ (load tiny 0 [5, 209]).mem := by decide +kernel

theorem reset_legal : Inv State.reset := by constructor <;> decide

/-- An accepted `CLR B2`: a legal state whose step completes the command. -/
theorem witness_EveryStepKeepsLegality :
    Inv ({ State.reset with nw := 40 }.accept 0x01200000#32) ∧
      ∃ t, step ({ State.reset with nw := 40 }.accept 0x01200000#32) = .next t ∧ (!t.status.busy) = true := by
  refine ⟨?_, next_of_see (p := fun t => !t.status.busy) (by decide +kernel)⟩
  constructor <;> decide

theorem witness_BarrettReductionIsTheModulus : 0 < 1 ∧ barrettMod (-7) 5 = 3 := by decide +kernel

theorem witness_MontgomeryReductionIsCorrect : 209 % 2 = 1 ∧ 208 * 2 ^ 32 < 209 * limb ^ limbsOf 209 := by
  decide +kernel

theorem witness_SlidingWindowIsThePower : 0 < 1 ∧ slidingWindowPow 3 200 50 = 1 := by decide +kernel

end Sys2Proof.Tests
end

section
/-! The legal-state invariant (O55, O56). `Inv` is taken apart into what it says of the operand RAM (`RamLegal`), of
the data registers (`DataLegal`), and of the life of a command; each operation keeps its part, and `step_cases`,
`engineTurn_cases` and the commands put the parts together. -/

namespace Sys2Proof.Machine

/-! ### The operand RAM -/

/-- What `Inv` says of the operand RAM. -/
structure RamLegal (nw : Nat) (m : Memory) : Prop where
  canonical : m.wf
  in_ram : ∀ c ∈ m, 0x10000 ≤ c.1 ∧ c.1 < ramEnd nw
  whole_words : ∀ c ∈ m, ∀ k < 4, ∃ v, (c.1 / 4 * 4 + k, v) ∈ m

theorem RamLegal.nil (nw : Nat) : RamLegal nw [] := ⟨Memory.wf_nil, by simp, by simp⟩

/-- Storing words to an aligned block inside the operand RAM. -/
theorem RamLegal.storeWords {nw lo : Nat} {m : Memory} {ws : List Word} (h : RamLegal nw m) (haligned : lo % 4 = 0)
    (hlo : 0x10000 ≤ lo) (hhi : lo + 4 * ws.length ≤ ramEnd nw) : RamLegal nw (m.storeWords lo ws) := by
  have hlen := flatMap_wordBytes_length ws
  refine ⟨Memory.wf_storeWords h.canonical lo ws, fun c hc => ?_, fun c hc k hk => ?_⟩
  · obtain hnew | ⟨hold, -⟩ := Memory.mem_store.1 hc
    · have := Memory.mem_cellsFrom_range hnew
      omega
    · exact h.in_ram c hold
  · obtain hnew | ⟨hold, hout⟩ := Memory.mem_store.1 hc
    · have := Memory.mem_cellsFrom_range hnew
      obtain ⟨v, hv⟩ := Memory.exists_mem_cellsFrom (a := c.1 / 4 * 4 + k) (lo := lo)
        (bs := ws.flatMap wordBytes) (by omega)
      exact ⟨v, Memory.mem_store.2 (.inl hv)⟩
    · obtain ⟨v, hv⟩ := h.whole_words c hold k hk
      exact ⟨v, Memory.mem_store.2 (.inr ⟨hv, by simp only; omega⟩)⟩

/-- Forgetting a block of whole words. -/
theorem RamLegal.forget {nw lo n : Nat} {m : Memory} (h : RamLegal nw m) (hlo : lo % 4 = 0) (hn : n % 4 = 0) :
    RamLegal nw (m.forget lo n) := by
  refine ⟨Memory.wf_forget h.canonical lo n, fun c hc => h.in_ram c (Memory.mem_forget.1 hc).1, fun c hc k hk => ?_⟩
  obtain ⟨hold, hout⟩ := Memory.mem_forget.1 hc
  obtain ⟨v, hv⟩ := h.whole_words c hold k hk
  exact ⟨v, Memory.mem_forget.2 ⟨hv, by simp only; omega⟩⟩

/-- Every big register starts at a word boundary. -/
theorem wordOffset_aligned (nw i j : Nat) : wordOffset nw i j % 4 = 0 := by
  unfold wordOffset; omega

/-- B0..B7 lie in the operand RAM (20_memory.md R63). -/
theorem regBlock_le_ramEnd {i : Nat} (nw : Nat) (hi : i < 8) : wordOffset nw i 0 + 4 * nw ≤ ramEnd nw := by
  have := Nat.mul_le_mul_right nw (show i + 1 ≤ 8 from hi)
  rw [Nat.add_mul] at this
  unfold wordOffset ramEnd
  omega

/-! ### The data registers -/

section
variable {s t : State}

/-- What `Inv` says apart from the life of a command. -/
structure DataLegal (s : State) : Prop where
  nw_range : 40 ≤ s.nw ∧ s.nw ≤ 2048
  ram : RamLegal s.nw s.mem
  mconst_odd : s.mconst = 0 ∨ s.mconst.toNat % 2 = 1
  wfsug_valid : s.wfsug = 0 ∨ isWorkfactor s.wfsug = true
  winsz_range : s.winsz.toNat ≤ 7
  mrrounds_range : s.mrrounds.toNat ≤ 2 ^ 31

theorem Inv.data (h : Inv s) : DataLegal s where
  nw_range := h.nw_range
  ram := ⟨h.mem_canonical, h.mem_in_ram, h.mem_whole_words⟩
  mconst_odd := h.mconst_odd
  wfsug_valid := h.wfsug_valid
  winsz_range := h.winsz_range
  mrrounds_range := h.mrrounds_range

/-- `Inv` from its two halves. -/
theorem DataLegal.inv (h : DataLegal s) (pending : s.pending = if s.status.busy then some s.cmd else none)
    (busy : s.status.busy = true →
      s.status.done = false ∧ s.status.err = false ∧ s.status.result = false ∧ s.errcode = .noError)
    (err : s.status.err = true → s.errcode ≠ .noError) (result : s.status.result = true → s.errcode = .noError) :
    Inv s where
  nw_range := h.nw_range
  mem_canonical := h.ram.canonical
  mem_in_ram := h.ram.in_ram
  mem_whole_words := h.ram.whole_words
  pending_is_cmd := pending
  busy_reads_clear := busy
  err_has_cause := err
  result_without_error := result
  mconst_odd := h.mconst_odd
  wfsug_valid := h.wfsug_valid
  winsz_range := h.winsz_range
  mrrounds_range := h.mrrounds_range

/-! ### The life of a command: acceptance, completion, error, reset -/

theorem DataLegal.accept (h : DataLegal s) (v : Word) : Inv (s.accept v) :=
  DataLegal.inv { h with } (by simp) (by simp) (by simp) (by simp)

/-- A reset needs only the operand RAM to be legal. -/
theorem RamLegal.resetCsrs (h : RamLegal s.nw s.mem) (hnw : 40 ≤ s.nw ∧ s.nw ≤ 2048) : Inv s.resetCsrs :=
  DataLegal.inv ⟨hnw, h, .inl rfl, .inl rfl, by simp, by simp⟩ (by simp) (by simp) (by simp) (by simp)

/-- An error is raised while RESULT is still 0. -/
theorem DataLegal.raiseError {code : ErrCode} (h : DataLegal s) (hres : s.status.result = false)
    (hcode : code ≠ .noError) : Inv (s.raiseError code) :=
  DataLegal.inv { h with } (by simp) (by simp) (by simpa using hcode) (by simp [hres])

/-- A running command that has raised no error: what each of its writes keeps. RESULT may be set already. -/
structure ErrorFree (s : State) : Prop extends DataLegal s where
  err : s.status.err = false
  errcode : s.errcode = .noError

theorem ErrorFree.complete (h : ErrorFree s) (cnt : Nat) : Inv (s.complete cnt) :=
  DataLegal.inv { h with } (by simp) (by simp) (by simp [h.err]) (by simp [h.errcode])

/-- A running command that has written nothing yet. -/
structure Running (s : State) : Prop extends ErrorFree s where
  result : s.status.result = false

/-- The engine's turn finds a pending command only in a busy state. -/
theorem Inv.running {w : Word} (h : Inv s) (hp : s.pending = some w) : Running s := by
  have hbusy : s.status.busy = true := by
    by_contra hidle
    simp [h.pending_is_cmd, hidle] at hp
  obtain ⟨-, herr, hresult, hcode⟩ := h.busy_reads_clear hbusy
  exact { h.data with err := herr, errcode := hcode, result := hresult }

/-! ### What a command writes -/

theorem ErrorFree.writeReg {d : RegField} (h : ErrorFree s) (hd : d.toNat < 8) (v : Nat) :
    ErrorFree (s.writeReg d v) where
  toDataLegal := { h with
    ram := h.ram.storeWords (wordOffset_aligned ..) (by unfold wordOffset; omega)
      (by simpa using regBlock_le_ramEnd s.nw hd) }
  err := h.err
  errcode := h.errcode

theorem ErrorFree.setResult (h : ErrorFree s) (b : Bool) : ErrorFree (s.setResult b) := { h with }

theorem ErrorFree.takeWords (h : ErrorFree s) (n : Nat) : ErrorFree (s.takeWords n) := { h with }

theorem ErrorFree.setLastred (h : ErrorFree s) (r : Reduction) : ErrorFree (s.setLastred r) := { h with }

theorem ErrorFree.setWinsz {w : BitVec 4} (h : ErrorFree s) (hw : w.toNat ≤ 7) : ErrorFree (s.setWinsz w) :=
  { h with winsz_range := hw }

theorem ErrorFree.setMconst {w : Word} (h : ErrorFree s) (hw : w.toNat % 2 = 1) :
    ErrorFree { s with mconst := w } :=
  { h with mconst_odd := .inr hw }

theorem ErrorFree.setMrrounds {w : Word} (h : ErrorFree s) (hw : w.toNat ≤ 2 ^ 31) :
    ErrorFree { s with mrrounds := w } :=
  { h with mrrounds_range := hw }

theorem ErrorFree.reportPath (h : ErrorFree s) (b : Bool) (m : Nat) : ErrorFree (s.reportPath b m) := by
  unfold State.reportPath
  split_ifs with _ hodd
  · exact { h with }
  · exact { h.setMconst (montgomeryConstant_odd m hodd) with }
  · exact { h with }

/-- R181's choice is made among the valid workfactors. -/
theorem isWorkfactor_nearestWorkfactor (w : Word) : isWorkfactor (nearestWorkfactor w) = true := by
  have hlt : ∀ v ∈ validWorkfactors, v < 2 ^ 32 := by decide
  have hmem : validWorkfactors.foldl (nearer w.toNat) 2 ∈ validWorkfactors :=
    List.foldlRecOn _ _ (motive := (· ∈ validWorkfactors)) (by decide) fun best hbest v hv => by
      unfold nearer; split <;> assumption
  rw [isWorkfactor, nearestWorkfactor, BitVec.toNat_ofNat, Nat.mod_eq_of_lt (hlt _ hmem)]
  exact List.contains_iff_mem.2 hmem

theorem ErrorFree.setWfsug (h : ErrorFree s) (w : Word) : ErrorFree { s with wfsug := nearestWorkfactor w } :=
  { h with wfsug_valid := .inr (isWorkfactor_nearestWorkfactor w) }

/-! ### The commands -/

/-- Where the outcome is a next state, that state is legal. -/
def EndsLegal (r : Result) : Prop := ∀ t, r = .next t → Inv t

theorem endsLegal_next (h : Inv s) : EndsLegal (.next s) := by
  rintro _ ⟨⟩; exact h

theorem endsLegal_withSource {i : RegField} {k : Int → Result} (h : ∀ x, EndsLegal (k x)) :
    EndsLegal (withSource s i k) := by
  intro t ht
  obtain ⟨x, -, hx⟩ := withSource_eq_next ht
  exact h x t hx

theorem ErrorFree.finish (h : ErrorFree s) (cnt : Nat) : EndsLegal (finish s cnt) := endsLegal_next (h.complete cnt)

theorem Running.fail {code : ErrCode} (h : Running s) (hcode : code ≠ .noError) : EndsLegal (fail s code) :=
  endsLegal_next (h.raiseError h.result hcode)

theorem Running.execMconst (h : Running s) (c : RegField) : EndsLegal (execMconst c s) :=
  endsLegal_withSource fun m => by
    split_ifs
    · exact h.fail (by decide)
    · exact h.fail (by decide)
    · exact (h.setMconst (montgomeryConstant_odd _ (by omega))).finish 0

theorem Running.execModred {d : RegField} (h : Running s) (hd : d.toNat < 8) (a c : RegField) :
    EndsLegal (execModred d a c s) :=
  endsLegal_withSource fun x => endsLegal_withSource fun m => by
    split_ifs
    · exact h.fail (by decide)
    · exact h.fail (by decide)
    · exact (((h.writeReg hd _).setLastred _).setWinsz (by decide)).finish 0

theorem Running.execModsqr {d : RegField} (h : Running s) (hd : d.toNat < 8) (a c : RegField) :
    EndsLegal (execModsqr d a c s) :=
  endsLegal_withSource fun x => endsLegal_withSource fun m => by
    split_ifs
    · exact h.fail (by decide)
    · exact (((h.writeReg hd _).reportPath _ _).setWinsz (by decide)).finish 0

theorem windowWidth_le (l : Nat) : (windowWidth l).toNat ≤ 7 := by
  unfold windowWidth
  split_ifs <;> decide

theorem Running.execModpow {d : RegField} (h : Running s) (hd : d.toNat < 8) (a b c : RegField) :
    EndsLegal (execModpow d a b c s) :=
  endsLegal_withSource fun g => endsLegal_withSource fun e => endsLegal_withSource fun m => by
    split_ifs
    · exact h.fail (by decide)
    · exact h.fail (by decide)
    · exact (((h.writeReg hd _).reportPath _ _).setWinsz (by decide)).finish 0
    · exact (((h.writeReg hd _).reportPath _ _).setWinsz (windowWidth_le _)).finish 0

theorem Running.execSqrloop {d : RegField} (h : Running s) (hd : d.toNat < 8) (a c : RegField) (strict : Bool) :
    EndsLegal (execSqrloop d a c strict s) :=
  endsLegal_withSource fun x => endsLegal_withSource fun m => by
    split_ifs
    · exact h.fail (by decide)
    · exact h.fail (by decide)
    · exact endsLegal_next ((h.setWfsug _).raiseError h.result (by decide))
    · exact (((h.writeReg hd _).reportPath _ _).setWinsz (by decide)).finish 0

theorem Running.execTrialdiv (h : Running s) (a : RegField) : EndsLegal (execTrialdiv a s) :=
  endsLegal_withSource fun n => by
    split_ifs
    · exact h.fail (by decide)
    · exact ((h.setMrrounds (by decide)).setResult _).finish 0

theorem Running.execMrround (h : Running s) (a b : RegField) : EndsLegal (execMrround a b s) :=
  endsLegal_withSource fun n => endsLegal_withSource fun base => by
    split_ifs
    · exact h.fail (by decide)
    · exact ((h.setMrrounds (by decide)).setResult _).finish 0

/-- R154's counts, for a 32-bit certainty. -/
theorem mrRounds_le {c : Nat} (hc : c < 2 ^ 32) (l : Nat) (random : Bool) : mrRounds c l random ≤ 2 ^ 31 := by
  have h100 : roundsFor100 l ≤ 50 := by unfold roundsFor100; split_ifs <;> decide
  unfold mrRounds
  split_ifs <;> omega

/-- The loop never runs more rounds than it was given. -/
theorem mrLoop_rounds_le {stream : Nat → Word} {n tries left done pos : Nat} {e : RoundsEnd}
    (h : mrLoop stream n tries left done pos = some e) : e.rounds ≤ done + left := by
  induction left generalizing done pos with
  | zero =>
    obtain rfl := Option.some.inj h
    exact le_rfl
  | succ left ih =>
    unfold mrLoop at h
    split at h
    · exact absurd h (by simp)
    · split_ifs at h
      · have := ih h
        omega
      · obtain rfl := Option.some.inj h
        simp only
        omega

theorem Running.mrtestRounds (h : Running s) (hs : Inv s) (n : Nat) (random : Bool) :
    EndsLegal (mrtestRounds n random s) := by
  unfold Machine.mrtestRounds
  split
  · exact endsLegal_next { hs with }
  · next e he =>
    have hrounds : (BitVec.ofNat 32 e.rounds).toNat ≤ 2 ^ 31 := by
      have := mrLoop_rounds_le he
      have := mrRounds_le s.cert.isLt (bitlen n) random
      exact (BitVec.toNat_ofNat ..).trans_le ((Nat.mod_le ..).trans (by omega))
    have ht := (h.setMrrounds hrounds).takeWords e.taken
    refine ErrorFree.finish ?_ e.taken
    split_ifs
    · exact ht.setResult true
    · exact ht

theorem Running.execMrtest (h : Running s) (hs : Inv s) (a : RegField) (random : Bool) :
    EndsLegal (execMrtest a random s) :=
  endsLegal_withSource fun n => by
    split_ifs
    · exact h.fail (by decide)
    · split
      · exact (h.setMrrounds (by decide)).finish 0
      · exact ((h.setMrrounds (by decide)).setResult true).finish 0
      · exact h.mrtestRounds hs n.toNat random

theorem Running.execRandcand {d : RegField} (h : Running s) (hd : d.toNat < 8) (blum : Bool) :
    EndsLegal (execRandcand d blum s) := by
  unfold Machine.execRandcand
  split_ifs
  · exact h.fail (by decide)
  · exact ((h.writeReg hd _).takeWords _).finish _

/-- Every command ends in a legal state, if its destination is one of B0..B7. -/
theorem Running.exec {i : Instr} (h : Running s) (hs : Inv s) (hd : ∀ d, i.destination = some d → d.toNat < 8) :
    EndsLegal (exec i s) := by
  cases i with
  | nop => exact h.finish 0
  | clr d => exact (h.writeReg (hd d rfl) 0).finish 0
  | modred d a c => exact h.execModred (hd d rfl) a c
  | mconst c => exact h.execMconst c
  | modsqr d a c => exact h.execModsqr (hd d rfl) a c
  | sqrloop d a c strict => exact h.execSqrloop (hd d rfl) a c strict
  | modpow d a b c => exact h.execModpow (hd d rfl) a b c
  | trialdiv a => exact h.execTrialdiv a
  | mrround a b => exact h.execMrround a b
  | mrtest a random => exact h.execMrtest hs a random
  | randcand d blum => exact h.execRandcand (hd d rfl) blum
  | wfchk => exact ((h.setWfsug s.wf).setResult _).finish 0

/-! ### The engine's turn -/

/-- A selected command takes its destination from RD. -/
theorem destination_of_selectOpcode {w : Word} {i : Instr} {d : RegField} (h : selectOpcode w = some i)
    (hd : i.destination = some d) : i.fieldUse.rd = true ∧ d = rdField w := by
  unfold selectOpcode at h
  split at h <;> cases h <;> cases hd <;> exact ⟨rfl, rfl⟩

/-- A decoded command's destination is one of B0..B7 (30_encoding.md R92, R96). -/
theorem destination_lt_of_decode {w : Word} {i : Instr} {d : RegField} (h : decode w = .ok i)
    (hd : i.destination = some d) : d.toNat < 8 := by
  obtain ⟨hsel, hfields⟩ := (decode_eq_ok_iff w i).1 h
  obtain ⟨huse, rfl⟩ := destination_of_selectOpcode hsel hd
  simp only [fieldsOk, Bool.and_eq_true] at hfields
  obtain ⟨⟨⟨⟨hrd, -⟩, -⟩, -⟩, -⟩ := hfields
  simpa [fieldOk, huse, RegField.isBigReg, BitVec.lt_def] using hrd

theorem Inv.engineTurn (h : Inv s) : EndsLegal (engineTurn s) := by
  obtain ⟨-, he⟩ | ⟨w, e, hp, -, he⟩ | ⟨w, i, hp, hdec, he⟩ := engineTurn_cases s <;> rw [he]
  · exact endsLegal_next h
  · exact (h.running hp).fail (by cases e <;> decide)
  · exact (h.running hp).exec h fun d hd => destination_lt_of_decode hdec hd

/-! ### Resets -/

/-- An abandoned command leaves whole words unwritten, and nothing else that `Inv` speaks of. -/
theorem Inv.softReset (h : Inv s) : Inv s.softReset := by
  unfold State.softReset
  split
  · exact h.data.ram.resetCsrs h.nw_range
  · unfold State.abandon
    split
    · exact RamLegal.resetCsrs (s := s.loseWords) h.data.ram h.nw_range
    · next d _ =>
      exact RamLegal.resetCsrs (s := (s.spoilReg d _).loseWords)
        (h.data.ram.forget (wordOffset_aligned ..) (by omega)) h.nw_range

theorem Inv.hardReset (h : Inv s) : Inv s.hardReset := by
  unfold State.hardReset
  split
  · exact RamLegal.resetCsrs (s := { s with sign := 0, mem := [] }) (.nil _) h.nw_range
  · exact RamLegal.resetCsrs (s := { s with sign := 0, mem := [] }.loseWords) (.nil _) h.nw_range

/-! ### Host accesses -/

theorem Inv.answer (h : Inv s) (v : Word) : Inv (s.answer v) := { h with }

theorem Inv.answerFree (h : Inv s) : Inv s.answerFree := { h with }

theorem Inv.busRead (h : Inv s) (off : Nat) : Inv (s.busRead off) := by
  unfold State.busRead
  split_ifs
  · exact h.answer _
  · exact h.answerFree
  · split
    · exact h.answer _
    · exact h.answerFree
  · exact h.answer 0

/-- A dropped write sets OVR only (10_state.md R29). -/
theorem Inv.guarded (h : Inv s) (ht : Inv t) : Inv (s.guarded t) := by
  unfold State.guarded
  split_ifs
  · exact { h with }
  · exact ht

theorem Inv.writeCtrl (h : Inv s) (v : Word) : Inv (s.writeCtrl v) := by
  unfold State.writeCtrl
  split_ifs
  · exact h.softReset
  · exact { h with }

/-- Write-1-to-clear only ever clears DONE, ERR and OVR (10_state.md R26, R27, R29). -/
theorem Inv.clearOnes (h : Inv s) (v : Word) : Inv { s with status := s.status.clearOnes v } :=
  { h with
    busy_reads_clear := fun hbusy => by
      obtain ⟨hdone, herr, hresult, hcode⟩ := h.busy_reads_clear hbusy
      simp [Status.clearOnes, hdone, herr, hresult, hcode]
    err_has_cause := fun herr => h.err_has_cause (Bool.and_elim_left herr) }

theorem Inv.storeWord {off : Nat} (h : Inv s) (v : Word) (haligned : off % 4 = 0) (hram : inRam s.nw off = true) :
    Inv { s with mem := s.mem.storeWord off v } := by
  obtain ⟨hlo, hhi⟩ : 0x10000 ≤ off ∧ off < ramEnd s.nw := by simpa [inRam] using hram
  have hram := h.data.ram.storeWords (ws := [v]) haligned hlo (by
    unfold ramEnd at *
    simp only [List.length_singleton]
    omega)
  exact { h with
    mem_canonical := hram.canonical
    mem_in_ram := hram.in_ram
    mem_whole_words := hram.whole_words }

theorem Inv.writeAt {off : Nat} (h : Inv s) (v : Word) (haligned : off % 4 = 0) : Inv (s.writeAt off v) := by
  unfold State.writeAt
  split_ifs with _ _ _ _ _ _ _ hram
  · exact h.writeCtrl v
  · exact h.clearOnes v
  · exact h.guarded (h.data.accept v)
  · exact h.guarded { h with }
  · exact h.guarded { h with }
  · exact h.guarded { h with }
  · exact h.guarded { h with }
  · exact h.guarded (h.storeWord v haligned hram)
  · exact h

theorem Inv.access (h : Inv s) (a : Access) : Inv (s.access a) := by
  cases a with
  | read off strobes =>
    simp only [State.access]
    split_ifs
    · exact h.busRead _
    · exact { h with }
  | write off strobes v =>
    simp only [State.access]
    split_ifs with hword
    · have haligned : off.toNat % 4 = 0 := by
        simp only [wordAccess, Bool.and_eq_true, beq_iff_eq] at hword
        exact hword.1
      exact { h.writeAt v haligned with }
    · exact { h with }

/-! ### Every step -/

theorem Inv.step (h : Inv s) : EndsLegal (step s) := by
  have hrest (rest : List Input) : Inv { s with inputs := rest } := { h with }
  obtain ⟨-, he⟩ | ⟨rest, -, he⟩ | ⟨a, rest, -, he⟩ | ⟨rest, -, he⟩ := step_cases s <;> rw [he]
  · exact h.engineTurn
  · exact (hrest rest).engineTurn
  · exact endsLegal_next ((hrest rest).access a)
  · exact endsLegal_next (hrest rest).hardReset

end

/-- Settles O55: the reset state is what clearing the CSRs over an empty operand RAM leaves. -/
theorem resetStateIsLegal : Obligations.ResetStateIsLegal := by
  have hreset : State.reset.resetCsrs = State.reset := rfl
  have hinv : Inv State.reset.resetCsrs := RamLegal.resetCsrs (.nil _) (by decide)
  rwa [hreset] at hinv

/-- Settles O56, by the four events a step can be (`Inv.step`). -/
theorem everyStepKeepsLegality : Obligations.EveryStepKeepsLegality := fun _ t h ht => h.step t ht

end Sys2Proof.Machine
end

section
/-! What a command can do (O11, O51, O52, O53, O54). A command reads its sources and then applies one update to the
state, fixed by the values read and by CSRs. `CommandEffect` lists the updates of each command; `exec_runTogether`
walks through the commands once, for two states that differ in operand RAM and SIGN only: if they agree on the
sources, both fault or both make the same update. The frames are then facts about the updates. -/

namespace Sys2Proof.Machine

/-! ### The updates a command can end with -/

/-- The updates of the state a command can end with, whatever its values and codes are. -/
inductive CommandEffect : Instr → (State → State) → Prop where
  | error (i : Instr) (code : ErrCode) : CommandEffect i fun s => s.raiseError code
  | workfactorError (d a c : RegField) (strict : Bool) (w : Word) (code : ErrCode) :
      CommandEffect (.sqrloop d a c strict) fun s => { s with wfsug := w }.raiseError code
  | nop : CommandEffect .nop fun s => s.complete 0
  | clr (d : RegField) : CommandEffect (.clr d) fun s => (s.writeReg d 0).complete 0
  | modred (d a c : RegField) (v : Nat) :
      CommandEffect (.modred d a c) fun s => (((s.writeReg d v).setLastred .barrett).setWinsz 0).complete 0
  | mconst (c : RegField) (w : Word) : CommandEffect (.mconst c) fun s => { s with mconst := w }.complete 0
  /-- MODSQR, SQRLOOP and MODPOW report the path they took (41_modexp.md R124). -/
  | modular (i : Instr) (d : RegField) (v : Nat) (isTrivial : Bool) (m : Nat) (w : BitVec 4)
      (hd : i.destination = some d) (hi : i.mnemonic ∈ ["MODSQR", "SQRLOOP", "MODPOW"]) :
      CommandEffect i fun s => (((s.writeReg d v).reportPath isTrivial m).setWinsz w).complete 0
  /-- TRIALDIV, MRROUND, and MRTEST of a number that trial division shows to be prime. -/
  | verdict (i : Instr) (w : Word) (b : Bool) (hd : i.destination = none)
      (hi : i.mnemonic ∈ ["TRIALDIV", "MRROUND", "MRTEST"]) :
      CommandEffect i fun s => ({ s with mrrounds := w }.setResult b).complete 0
  /-- MRTEST of a composite number, found by trial division (no entropy taken) or by a round. -/
  | mrtestFailed (a : RegField) (random : Bool) (w : Word) (n : Nat) :
      CommandEffect (.mrtest a random) fun s => ({ s with mrrounds := w }.takeWords n).complete n
  | mrtestPassed (a : RegField) (random : Bool) (w : Word) (n : Nat) :
      CommandEffect (.mrtest a random) fun s => (({ s with mrrounds := w }.takeWords n).setResult true).complete n
  | mrtestRunning (a : RegField) (random : Bool) :
      CommandEffect (.mrtest a random) fun s => { s with patience := s.patience + 1 }
  | randcand (d : RegField) (blum : Bool) (v n : Nat) :
      CommandEffect (.randcand d blum) fun s => ((s.writeReg d v).takeWords n).complete n
  | wfchk (w : Word) (b : Bool) : CommandEffect .wfchk fun s => ({ s with wfsug := w }.setResult b).complete 0

section
variable {i : Instr} {s t : State} {f : State → State}

/-! ### Two runs of one command -/

/-- The outcomes `r` from `s` and `r'` from `s'` of a command that still has the sources `rs` to read, where the two
states agree on those: a source has an unwritten word and both are the fault, or both come from one update. -/
def RunTogether (i : Instr) (s s' : State) (rs : List RegField) (r r' : Result) : Prop :=
  (∀ a ∈ rs, s'.val? a = s.val? a) →
    ((rs.all fun a => (s.regWords a).isSome) = false ∧ r = .fault .uninitOperand ∧ r' = .fault .uninitOperand) ∨
      ((rs.all fun a => (s.regWords a).isSome) = true ∧
        ∃ f, CommandEffect i f ∧ r = .next (f s) ∧ r' = .next (f s'))

theorem CommandEffect.runTogether {s' : State} (h : CommandEffect i f) :
    RunTogether i s s' [] (.next (f s)) (.next (f s')) :=
  fun _ => .inr ⟨rfl, f, h, rfl, rfl⟩

theorem RunTogether.withSource {s' : State} {a : RegField} {rs : List RegField} {k k' : Int → Result}
    (hk : ∀ x, RunTogether i s s' rs (k x) (k' x)) :
    RunTogether i s s' (a :: rs) (withSource s a k) (withSource s' a k') := by
  intro hagree
  obtain ⟨ha, hrs⟩ := List.forall_mem_cons.1 hagree
  have hsome : (s.val? a).isSome = (s.regWords a).isSome := State.val?_isSome
  cases hx : s.val? a with
  | none =>
    rw [withSource_none k hx, withSource_none k' (ha.trans hx)]
    exact .inl ⟨by simp [← hsome, hx], rfl, rfl⟩
  | some x =>
    rw [withSource_some k hx, withSource_some k' (ha.trans hx)]
    simpa [← hsome, hx] using hk x hrs

/-! ### The commands -/

/-- The state with another operand RAM and SIGN. -/
abbrev State.withRam (s : State) (mem : Memory) (sign : BitVec 8) : State := { s with mem := mem, sign := sign }

section
variable {mem : Memory} {sign : BitVec 8} (d a b c : RegField)

theorem execModred_runTogether :
    RunTogether (.modred d a c) s (s.withRam mem sign) [a, c] (execModred d a c s)
      (execModred d a c (s.withRam mem sign)) :=
  .withSource fun x => .withSource fun m => by
    split_ifs
    · exact (CommandEffect.error ..).runTogether
    · exact (CommandEffect.error ..).runTogether
    · exact (CommandEffect.modred d a c (x % m).toNat).runTogether

theorem execMconst_runTogether :
    RunTogether (.mconst c) s (s.withRam mem sign) [c] (execMconst c s) (execMconst c (s.withRam mem sign)) :=
  .withSource fun m => by
    split_ifs
    · exact (CommandEffect.error ..).runTogether
    · exact (CommandEffect.error ..).runTogether
    · exact (CommandEffect.mconst c _).runTogether

theorem execModsqr_runTogether :
    RunTogether (.modsqr d a c) s (s.withRam mem sign) [a, c] (execModsqr d a c s)
      (execModsqr d a c (s.withRam mem sign)) :=
  .withSource fun x => .withSource fun m => by
    split_ifs
    · exact (CommandEffect.error ..).runTogether
    · exact (CommandEffect.modular _ d _ _ _ _ rfl (by simp [Instr.mnemonic])).runTogether

theorem execModpow_runTogether :
    RunTogether (.modpow d a b c) s (s.withRam mem sign) [a, b, c] (execModpow d a b c s)
      (execModpow d a b c (s.withRam mem sign)) :=
  .withSource fun g => .withSource fun e => .withSource fun m => by
    have hi : (Instr.modpow d a b c).mnemonic ∈ ["MODSQR", "SQRLOOP", "MODPOW"] := by simp [Instr.mnemonic]
    split_ifs
    · exact (CommandEffect.error ..).runTogether
    · exact (CommandEffect.error ..).runTogether
    · exact (CommandEffect.modular _ d _ _ _ _ rfl hi).runTogether
    · exact (CommandEffect.modular _ d _ _ _ _ rfl hi).runTogether

theorem execSqrloop_runTogether (strict : Bool) :
    RunTogether (.sqrloop d a c strict) s (s.withRam mem sign) [a, c] (execSqrloop d a c strict s)
      (execSqrloop d a c strict (s.withRam mem sign)) :=
  .withSource fun x => .withSource fun m => by
    split_ifs
    · exact (CommandEffect.error ..).runTogether
    · exact (CommandEffect.error ..).runTogether
    · exact (CommandEffect.workfactorError d a c strict ..).runTogether
    · exact (CommandEffect.modular _ d _ _ _ _ rfl (by simp [Instr.mnemonic])).runTogether

theorem execTrialdiv_runTogether :
    RunTogether (.trialdiv a) s (s.withRam mem sign) [a] (execTrialdiv a s) (execTrialdiv a (s.withRam mem sign)) :=
  .withSource fun n => by
    split_ifs
    · exact (CommandEffect.error ..).runTogether
    · exact (CommandEffect.verdict _ 0 _ rfl (by simp [Instr.mnemonic])).runTogether

theorem execMrround_runTogether :
    RunTogether (.mrround a b) s (s.withRam mem sign) [a, b] (execMrround a b s)
      (execMrround a b (s.withRam mem sign)) :=
  .withSource fun n => .withSource fun base => by
    split_ifs
    · exact (CommandEffect.error ..).runTogether
    · exact (CommandEffect.verdict _ 1 _ rfl (by simp [Instr.mnemonic])).runTogether

/-- The rounds draw from the entropy stream, which neither operand RAM nor SIGN is part of. -/
theorem mrtestRounds_runTogether (random : Bool) (n : Nat) :
    RunTogether (.mrtest a random) s (s.withRam mem sign) [] (mrtestRounds n random s)
      (mrtestRounds n random (s.withRam mem sign)) := by
  have hstream : (s.withRam mem sign).streamWord = s.streamWord := rfl
  simp only [mrtestRounds, hstream]
  cases mrLoop s.streamWord n s.patience (mrRounds s.cert.toNat (bitlen n) random) 0 0 with
  | none => exact (CommandEffect.mrtestRunning a random).runTogether
  | some e =>
    obtain ⟨passed, rounds, taken⟩ := e
    cases passed with
    | false => exact (CommandEffect.mrtestFailed a random (BitVec.ofNat 32 rounds) taken).runTogether
    | true => exact (CommandEffect.mrtestPassed a random (BitVec.ofNat 32 rounds) taken).runTogether

theorem execMrtest_runTogether (random : Bool) :
    RunTogether (.mrtest a random) s (s.withRam mem sign) [a] (execMrtest a random s)
      (execMrtest a random (s.withRam mem sign)) :=
  .withSource fun n => by
    split_ifs
    · exact (CommandEffect.error ..).runTogether
    · split
      · exact (CommandEffect.mrtestFailed a random 0 0).runTogether
      · exact (CommandEffect.verdict _ 0 true rfl (by simp [Instr.mnemonic])).runTogether
      · exact mrtestRounds_runTogether a random n.toNat

theorem execRandcand_runTogether (blum : Bool) :
    RunTogether (.randcand d blum) s (s.withRam mem sign) [] (execRandcand d blum s)
      (execRandcand d blum (s.withRam mem sign)) := by
  unfold execRandcand
  split_ifs
  · exact (CommandEffect.error ..).runTogether
  · exact (CommandEffect.randcand d blum _ _).runTogether

/-- Two states that differ in operand RAM and SIGN only, and agree on a command's sources, run it together. -/
theorem exec_runTogether (i : Instr) (s : State) (mem : Memory) (sign : BitVec 8) :
    RunTogether i s (s.withRam mem sign) i.sources (exec i s) (exec i (s.withRam mem sign)) := by
  cases i with
  | nop => exact CommandEffect.nop.runTogether
  | clr d => exact (CommandEffect.clr d).runTogether
  | modred d a c => exact execModred_runTogether d a c
  | mconst c => exact execMconst_runTogether c
  | modsqr d a c => exact execModsqr_runTogether d a c
  | sqrloop d a c strict => exact execSqrloop_runTogether d a c strict
  | modpow d a b c => exact execModpow_runTogether d a b c
  | trialdiv a => exact execTrialdiv_runTogether a
  | mrround a b => exact execMrround_runTogether a b
  | mrtest a random => exact execMrtest_runTogether a random
  | randcand d blum => exact execRandcand_runTogether d blum
  | wfchk => exact (CommandEffect.wfchk (nearestWorkfactor s.wf) (isWorkfactor s.wf)).runTogether

end

/-- All that one run of a command can do: fault on an unwritten source, or make one of the command's updates. -/
theorem exec_cases (i : Instr) (s : State) :
    (s.operandsReady i = false ∧ exec i s = .fault .uninitOperand) ∨
      (s.operandsReady i = true ∧ ∃ f, CommandEffect i f ∧ exec i s = .next (f s)) := by
  obtain ⟨hready, hfault, -⟩ | ⟨hready, f, heffect, hnext, -⟩ :=
    exec_runTogether i s s.mem s.sign fun _ _ => rfl
  · exact .inl ⟨hready, hfault⟩
  · exact .inr ⟨hready, f, heffect, hnext⟩

theorem exec_eq_next (h : exec i s = .next t) : ∃ f, CommandEffect i f ∧ t = f s := by
  obtain ⟨-, hfault⟩ | ⟨-, f, heffect, hnext⟩ := exec_cases i s
  · rw [hfault] at h; cases h
  · rw [hnext] at h; cases h; exact ⟨f, heffect, rfl⟩

/-! ### Big registers seen through operand RAM and SIGN -/

/-- The two states hold the same operand RAM and SIGN. -/
structure SameRam (s t : State) : Prop where
  nw : t.nw = s.nw
  mem : t.mem = s.mem
  sign : t.sign = s.sign

theorem SameRam.regWords (h : SameRam s t) (r : RegField) : t.regWords r = s.regWords r := by
  simp only [State.regWords, h.nw, h.mem]

theorem SameRam.signBit (h : SameRam s t) (r : RegField) : t.signBit r = s.signBit r := by
  simp only [State.signBit, h.sign]

/-- A register's value is a matter of its words and its SIGN bit. -/
theorem State.val?_congr {r : RegField} (hwords : t.regWords r = s.regWords r) (hsign : t.signBit r = s.signBit r) :
    t.val? r = s.val? r := by
  simp only [State.val?, hwords, hsign]

theorem SameRam.val? (h : SameRam s t) (r : RegField) : t.val? r = s.val? r :=
  State.val?_congr (h.regWords r) (h.signBit r)

/-! ### The frames of the updates -/

/-- Of operand RAM and SIGN an update changes nothing, or what a write of the command's destination changes. The
first it does where there is no destination, or with an error. -/
theorem CommandEffect.ram_cases (h : CommandEffect i f) :
    ((∀ s, SameRam s (f s)) ∧ (i.destination = none ∨ ∀ s, (f s).status.err = true)) ∨
      ∃ d v, i.destination = some d ∧ ∀ s, SameRam (s.writeReg d v) (f s) := by
  cases h with
  | error | workfactorError => exact .inl ⟨fun _ => ⟨rfl, rfl, rfl⟩, .inr fun _ => rfl⟩
  | nop | mconst | mrtestFailed | mrtestPassed | mrtestRunning | wfchk =>
    exact .inl ⟨fun _ => ⟨rfl, rfl, rfl⟩, .inl rfl⟩
  | verdict i w b hd => exact .inl ⟨fun _ => ⟨rfl, rfl, rfl⟩, .inl hd⟩
  | clr d => exact .inr ⟨d, 0, rfl, fun _ => ⟨rfl, rfl, rfl⟩⟩
  | modred d a c v => exact .inr ⟨d, v, rfl, fun _ => ⟨rfl, rfl, rfl⟩⟩
  | modular i d v isTrivial m w hd => exact .inr ⟨d, v, hd, fun _ => ⟨by simp, by simp, by simp⟩⟩
  | randcand d blum v n => exact .inr ⟨d, v, rfl, fun _ => ⟨rfl, rfl, rfl⟩⟩

/-- No update looks at operand RAM or SIGN. -/
theorem CommandEffect.withRam (h : CommandEffect i f) (s : State) (mem : Memory) (sign : BitVec 8) :
    f (s.withRam mem sign) = (f s).withRam (f (s.withRam mem sign)).mem (f (s.withRam mem sign)).sign := by
  cases h with
  | modular => simp only [State.reportPath]; split_ifs <;> rfl
  | _ => rfl

theorem CommandEffect.hostSideKept (h : CommandEffect i f) (s : State) : HostSideKept s (f s) := by
  cases h <;> constructor <;> simp

end

/-- Settles O11: the two cases of a run (`exec_cases`). -/
theorem unwrittenSourceIsTheOnlyFault : Obligations.UnwrittenSourceIsTheOnlyFault := by
  intro i s
  obtain ⟨hready, hfault⟩ | ⟨hready, f, -, hnext⟩ := exec_cases i s
  · simp [hready, hfault]
  · simp [hready, hnext]

/-- Settles O51: operand RAM and SIGN change not at all, or as by a write of the destination. -/
theorem commandsWriteOnlyTheNamedDestination : Obligations.CommandsWriteOnlyTheNamedDestination := by
  intro i s t h
  obtain ⟨f, heffect, rfl⟩ := exec_eq_next h
  obtain ⟨hsame, -⟩ | ⟨d, v, hd, hwrite⟩ := heffect.ram_cases
  · have hram := hsame s
    exact ⟨fun a _ => by rw [hram.mem], fun r _ => ⟨hram.regWords r, hram.signBit r, hram.val? r⟩,
      fun _ => ⟨hram.mem, hram.sign⟩⟩
  · have hram := hwrite s
    refine ⟨fun a ha => ?_, fun r hr => ?_, fun hnone => by simp [hd] at hnone⟩
    · have hout : a < wordOffset s.nw d.toNat 0 ∨ wordOffset s.nw d.toNat 0 + 4 * s.nw ≤ a := by
        simp only [inDestination, hd, Bool.and_eq_false_iff, decide_eq_false_iff_not] at ha
        omega
      rw [hram.mem, State.readByte_writeReg_outside hout]
    · have hne : r ≠ d := fun he => hr (he ▸ hd)
      exact ⟨(hram.regWords r).trans (State.regWords_writeReg_other hne),
        (hram.signBit r).trans (State.signBit_writeReg_other hne),
        (hram.val? r).trans (State.val?_writeReg_other hne)⟩

/-- Settles O52, by the updates a command can end with. -/
theorem commandsLeaveHostRegistersAlone : Obligations.CommandsLeaveHostRegistersAlone := by
  intro i s t h
  obtain ⟨f, heffect, rfl⟩ := exec_eq_next h
  refine ⟨heffect.hostSideKept s, ?_⟩
  cases heffect <;> simp

/-- Settles O53, by the updates a command can end with. -/
theorem informationalCsrsHaveTheirWriters : Obligations.InformationalCsrsHaveTheirWriters := by
  intro i s t h
  obtain ⟨f, heffect, rfl⟩ := exec_eq_next h
  cases heffect with
  | modular i d v isTrivial m w hd hi | verdict i w b hd hi =>
    simp only [List.mem_cons, List.not_mem_nil, or_false] at hi
    obtain hi | hi | hi := hi <;> simp [hi, saturate32]
  | _ => simp [Instr.mnemonic, saturate32]

/-- Settles O54: the two runs fault together or make the same update, and a write gives the destination the same words
and SIGN bit whatever they were. -/
theorem commandsReadOnlyTheNamedSources : Obligations.CommandsReadOnlyTheNamedSources := by
  intro i s mem sign s' hsrc
  obtain ⟨-, hfault, hfault'⟩ | ⟨-, f, heffect, hnext, hnext'⟩ :=
    exec_runTogether i s mem sign fun r hr => State.val?_congr (hsrc r hr).1 (hsrc r hr).2
  · exact .inl ⟨hfault, hfault'⟩
  · refine .inr ⟨f s, f s', hnext, hnext', heffect.withRam s mem sign, ?_⟩
    obtain ⟨-, hnone | herr⟩ | ⟨d, v, hd, hwrite⟩ := heffect.ram_cases
    · exact .inr fun d hd => by simp [hnone] at hd
    · exact .inl (herr s)
    · refine .inr fun d' hd' => ?_
      obtain rfl : d = d' := Option.some.inj (hd.symm.trans hd')
      have hwords (u : State) : (f u).regWords d = some (imageWords u.nw v) :=
        ((hwrite u).regWords d).trans State.regWords_writeReg_same
      have hbit (u : State) : (f u).signBit d = false := ((hwrite u).signBit d).trans State.signBit_writeReg_same
      exact ⟨(hwords s').trans (hwords s).symm, (hbit s').trans (hbit s).symm⟩

end Sys2Proof.Machine
end

section
/-! The value of a big register (O22): a load that succeeds succeeds on every part of its block, and the magnitude is
the sum over the words, word 0 most significant (10_state.md R21). -/

namespace Sys2Proof.Machine

variable {m : Memory} {lo n : Nat} {bs : List Byte} {ws : List Word}

/-! ### Loads of a part of a block -/

theorem Memory.cellsFrom_append (lo : Nat) (bs bs' : List Byte) :
    Memory.cellsFrom lo (bs ++ bs') = Memory.cellsFrom lo bs ++ Memory.cellsFrom (lo + bs.length) bs' := by
  induction bs generalizing lo with
  | nil => rfl
  | cons b bs ih => simp [Memory.cellsFrom, ih, Nat.add_assoc, Nat.add_comm 1]

/-- Cells are determined by their offsets and their values. -/
theorem Memory.eq_cellsFrom (hkeys : m.map Prod.fst = List.range' lo bs.length) (hvalues : m.map Prod.snd = bs) :
    m = Memory.cellsFrom lo bs := by
  rw [← List.zip_unzip m, ← List.zip_unzip (Memory.cellsFrom lo bs), List.unzip_eq_map, List.unzip_eq_map, hkeys,
    hvalues, Memory.cellsFrom_keys, Memory.cellsFrom_values]

/-- What a load finds in its window. -/
theorem Memory.load_eq_some_iff : m.load lo n = some bs ↔ bs.length = n ∧ m.window lo n = Memory.cellsFrom lo bs := by
  constructor
  · intro h
    have hlen := Memory.load_length h
    subst hlen
    unfold Memory.load at h
    split at h
    · next hkeys => exact ⟨rfl, Memory.eq_cellsFrom hkeys (Option.some.inj h)⟩
    · exact absurd h (by simp)
  · rintro ⟨rfl, h⟩
    simp [Memory.load, h, Memory.cellsFrom_keys, Memory.cellsFrom_values]

theorem Memory.window_window {a k : Nat} (hlo : lo ≤ a) (hhi : a + k ≤ lo + n) :
    Memory.window (m.window lo n) a k = m.window a k := by
  simp only [Memory.window, List.filter_filter]
  refine List.filter_congr fun c _ => ?_
  simp only [← Bool.decide_and, decide_eq_decide]
  omega

/-- A load that succeeds gives each part of its block. -/
theorem Memory.load_middle {pre mid post : List Byte} (h : m.load lo n = some (pre ++ (mid ++ post))) :
    m.load (lo + pre.length) mid.length = some mid := by
  obtain ⟨hlen, hwin⟩ := Memory.load_eq_some_iff.1 h
  simp only [List.length_append] at hlen
  refine Memory.load_eq_some_iff.2 ⟨rfl, ?_⟩
  rw [← Memory.window_window (lo := lo) (n := n) (by omega) (by omega), hwin, Memory.cellsFrom_append,
    Memory.cellsFrom_append, Memory.window_append, Memory.window_append,
    Memory.window_eq_nil fun c hc => by have := Memory.mem_cellsFrom_range hc; omega,
    Memory.window_eq_self fun c hc => Memory.mem_cellsFrom_range hc,
    Memory.window_eq_nil fun c hc => by have := Memory.mem_cellsFrom_range hc; omega]
  simp

/-! ### Words of a loaded block -/

/-- A word made of four bytes has those bytes. -/
theorem wordBytes_append_bytes (b0 b1 b2 b3 : Byte) : wordBytes (b0 ++ b1 ++ b2 ++ b3) = [b0, b1, b2, b3] := by
  have h1 : (b0 ++ b1 ++ b2 ++ b3).extractLsb' 16 8 = b1 :=
    (BitVec.extractLsb'_append_eq_of_le (by decide)).trans <|
      (BitVec.extractLsb'_append_eq_of_le (by decide)).trans BitVec.extractLsb'_append_eq_right
  have h0 : (b0 ++ b1 ++ b2 ++ b3).extractLsb' 24 8 = b0 :=
    (BitVec.extractLsb'_append_eq_of_le (by decide)).trans <|
      (BitVec.extractLsb'_append_eq_of_le (by decide)).trans BitVec.extractLsb'_append_eq_left
  have h2 : (b0 ++ b1 ++ b2 ++ b3).extractLsb' 8 8 = b2 :=
    (BitVec.extractLsb'_append_eq_of_le (by decide)).trans BitVec.extractLsb'_append_eq_right
  exact congrArg₂ _ h0 (congrArg₂ _ h1 (congrArg₂ _ h2 (congrArg₂ _ BitVec.extractLsb'_append_eq_right rfl)))

/-- Grouping bytes into words loses none of them. -/
theorem flatMap_bytesToWords (k : Nat) (bs : List Byte) (h : bs.length = 4 * k) :
    (bytesToWords bs).flatMap wordBytes = bs := by
  induction k generalizing bs with
  | zero => simp_all [bytesToWords]
  | succ k ih =>
    match bs, h with
    | b0 :: b1 :: b2 :: b3 :: rest, h =>
      simp [bytesToWords, wordBytes_append_bytes, ih rest (by simp at h; omega)]

theorem Memory.load_of_loadWords (h : m.loadWords lo n = some ws) :
    m.load lo (4 * n) = some (ws.flatMap wordBytes) := by
  obtain ⟨bs, hbs, rfl⟩ := Option.map_eq_some_iff.1 h
  rw [flatMap_bytesToWords n bs (Memory.load_length hbs), hbs]

/-- A block's words are the words at its offsets. -/
theorem Memory.loadWord_of_loadWords {j : Nat} (h : m.loadWords lo n = some ws) (hj : j < n) :
    m.loadWord (lo + 4 * j) = some (ws.getD j 0) := by
  have hlen := Memory.loadWords_length h
  have hws : ws = ws.take j ++ (ws.getD j 0 :: ws.drop (j + 1)) := by
    rw [List.getD_eq_getElem _ _ (by omega), List.cons_getElem_drop_succ, List.take_append_drop]
  have hload := Memory.load_of_loadWords h
  rw [hws, List.flatMap_append, List.flatMap_cons] at hload
  have hword := Memory.load_middle hload
  rw [flatMap_wordBytes_length, List.length_take, Nat.min_eq_left (by omega)] at hword
  have hgroup : bytesToWords (wordBytes (ws.getD j 0)) = [ws.getD j 0] := by
    rw [← bytesToWords_flatMap [ws.getD j 0], List.flatMap_singleton]
  rw [wordBytes_length] at hword
  rw [Memory.loadWord, Memory.loadWords, Nat.mul_one, hword, Option.map_some, hgroup]

/-! ### The magnitude as a sum -/

/-- Horner's rule, for any base. -/
theorem foldl_horner_eq_sum (base : Nat) (ws : List Word) (acc : Nat) :
    ws.foldl (fun acc w => acc * base + w.toNat) acc = acc * base ^ ws.length +
      ((List.range ws.length).map fun j => (ws.getD j 0).toNat * base ^ (ws.length - 1 - j)).sum := by
  induction ws generalizing acc with
  | nil => simp
  | cons w ws ih =>
    rw [List.foldl_cons, ih, List.length_cons, List.range_succ_eq_map]
    simp only [List.map_cons, List.sum_cons, List.map_map, Function.comp_def, List.getD_cons_zero,
      List.getD_cons_succ, Nat.succ_eq_add_one, Nat.sub_zero, Nat.add_sub_cancel, Nat.sub_add_eq,
      Nat.sub_right_comm _ _ 1]
    ring

theorem magnitude_eq_sum (ws : List Word) : magnitude ws =
    ((List.range ws.length).map fun j => (ws.getD j 0).toNat * 2 ^ (32 * (ws.length - 1 - j))).sum := by
  rw [magnitude, foldl_horner_eq_sum, Nat.zero_mul, Nat.zero_add]
  simp only [pow_mul]

/-- Settles O22: the words by `Memory.loadWord_of_loadWords`, the magnitude by `magnitude_eq_sum`. -/
theorem valueOfARegister : Obligations.ValueOfARegister := by
  intro s i ws h mag
  have hlen := State.regWords_length h
  have hmag : magnitude ws = mag := by rw [magnitude_eq_sum, hlen]
  have hval : s.val? i = some (signedValue mag (s.signBit i)) := by simp only [State.val?, h, hmag]
  refine ⟨hlen, hmag, ?_, fun j hj => ?_, fun h0 => ?_, fun h0 hneg => ?_, fun h0 hpos => ?_⟩
  · rw [← hmag, ← hlen]; exact magnitude_lt ws
  · have hword := Memory.loadWord_of_loadWords h hj
    rwa [show wordOffset s.nw i.toNat 0 + 4 * j = 0x10000 + 4 * (i.toNat * s.nw + j) by unfold wordOffset; ring]
      at hword
  · rw [hval, signedValue, if_pos h0]
  · rw [hval, hneg, signedValue, if_neg h0, if_pos rfl]
  · rw [hval, hpos, signedValue, if_neg h0, if_neg Bool.false_ne_true]

end Sys2Proof.Machine
end

section
/-! The host's word accesses and the engine's turn (O6, O8, O17, O18, O26): one equation per kind of write, from
which the statements about CMD, SIGN, WF, CERT, NBITS, STATUS and the interrupt follow. -/

namespace Sys2Proof.Machine

variable {s : State}

/-! ### Word accesses (20_memory.md R67, R70, R71) -/

theorem State.access_write_word {off : Offset} (h : off.toNat % 4 = 0) (v : Word) :
    s.access (.write off 0b1111#4 v) = { s.writeAt off.toNat v with resp := .okay } := by
  simp [State.access, wordAccess, h, State.busWrite]

theorem State.access_read_csr {off : Offset} (h : off.toNat % 4 = 0) (hcsr : off.toNat < 0x40) :
    s.access (.read off 0b1111#4) = s.answer (s.readCsr (off.toNat / 4)) := by
  simp [State.access, wordAccess, h, State.busRead, hcsr]

theorem State.guarded_idle (h : s.status.busy = false) (t : State) : s.guarded t = t := by
  simp [State.guarded, h]

theorem State.guarded_busy (h : s.status.busy = true) (t : State) : s.guarded t = s.dropWrite := by
  simp [State.guarded, h]

/-- The offsets whose writes are busy-guarded: CMD, SIGN, WF, CERT, NBITS and the operand RAM (10_state.md R29). -/
def isGuarded (nw off : Nat) : Prop :=
  off ∈ [0x00C, 0x014, 0x018, 0x01C, 0x020] ∨ (0x10000 ≤ off ∧ off < ramEnd nw)

theorem State.writeAt_guarded {off : Nat} (h : isGuarded s.nw off) (v : Word) :
    ∃ t, s.writeAt off v = s.guarded t := by
  obtain hcsr | ⟨hlo, hhi⟩ := h
  · simp only [List.mem_cons, List.not_mem_nil, or_false] at hcsr
    obtain rfl | rfl | rfl | rfl | rfl := hcsr <;> exact ⟨_, rfl⟩
  · refine ⟨{ s with mem := s.mem.storeWord off v }, ?_⟩
    have hram : inRam s.nw off = true := by simp [inRam, hlo, hhi]
    simp (disch := omega) only [State.writeAt, if_neg, hram, if_true]

/-- While BUSY = 1 a guarded write is dropped and sets OVR. -/
theorem State.writeAt_busy {off : Nat} (hbusy : s.status.busy = true) (h : isGuarded s.nw off) (v : Word) :
    s.writeAt off v = s.dropWrite := by
  obtain ⟨t, ht⟩ := State.writeAt_guarded h v
  rw [ht, State.guarded_busy hbusy]

/-- While BUSY = 0 a guarded write happens. -/
theorem State.access_write_idle {off : Offset} {v : Word} {t : State} (hidle : s.status.busy = false)
    (halign : off.toNat % 4 = 0) (hwrite : s.writeAt off.toNat v = s.guarded t) :
    s.access (.write off 0b1111#4 v) = { t with resp := .okay } := by
  rw [State.access_write_word halign, hwrite, State.guarded_idle hidle]

/-! ### Acceptance (10_state.md R41) -/

theorem State.access_write_cmd (h : s.status.busy = false) (v : Word) :
    s.access (.write 0x00C#17 0b1111#4 v) = { s.accept v with resp := .okay } :=
  State.access_write_idle h rfl rfl

theorem Status.word_busy (t : Status) : t.word.getLsbD 0 = t.busy := by
  obtain ⟨busy, done, err, result, ovr⟩ := t
  revert busy done err result ovr
  decide

theorem Status.word_done (t : Status) : t.word.getLsbD 1 = t.done := by
  obtain ⟨busy, done, err, result, ovr⟩ := t
  revert busy done err result ovr
  decide

/-- Settles O8: acceptance leaves BUSY = 1, so every guarded write after it is dropped. -/
theorem cmdWriteWhileIdleIsAccepted : Obligations.CmdWriteWhileIdleIsAccepted := by
  intro s v hidle t
  have ht : t = { s.accept v with resp := .okay } := State.access_write_cmd hidle v
  have hread : (t.access (.read 0x008#17 0b1111#4)).rdata = t.status.word := by
    rw [State.access_read_csr rfl (by decide)]; rfl
  refine ⟨ht, ?_, ?_, fun off v' halign hguard => ?_⟩
  · rw [hread, Status.word_busy, ht]; rfl
  · rw [hread, Status.word_done, ht]; rfl
  · have hbusy : t.status.busy = true := by rw [ht]; rfl
    have hoff : isGuarded t.nw off.toNat := by
      have hnw : t.nw = s.nw := by rw [ht]; rfl
      rw [hnw]
      refine hguard.imp (fun hcsr => ?_) id
      exact List.mem_map_of_mem (f := BitVec.toNat) hcsr
    rw [State.access_write_word halign, State.writeAt_busy hbusy hoff]
    rfl

/-- Settles O17: a guarded write while idle happens. -/
theorem scalarWritesWhileIdleAreStored : Obligations.ScalarWritesWhileIdleAreStored := by
  intro s v hidle
  refine ⟨?_, ?_, ?_, ?_⟩
  · exact State.access_write_idle (t := { s with sign := v.setWidth 8 }) hidle rfl rfl
  · exact State.access_write_idle (t := { s with wf := v }) hidle rfl rfl
  · exact State.access_write_idle (t := { s with cert := v }) hidle rfl rfl
  · exact State.access_write_idle (t := { s with nbits := v }) hidle rfl rfl

theorem State.access_write_status (s : State) (v : Word) :
    s.access (.write 0x008#17 0b1111#4 v) = { s with status := s.status.clearOnes v, resp := .okay } :=
  State.access_write_word rfl v

/-- Settles O18: STATUS is not busy-guarded. -/
theorem statusWriteOneClears : Obligations.StatusWriteOneClears := fun s v => State.access_write_status s v

/-- Settles O26, from what each event leaves in DONE, ERR and CTRL. -/
theorem interruptFollowsDoneAndErr : Obligations.InterruptFollowsDoneAndErr := by
  intro s
  refine ⟨rfl, fun t cnt hcompleted hctrl => ?_, fun c => ?_, ?_, fun v => ?_⟩
  · simp [State.irq, hcompleted.done, hcompleted.err, hctrl]
  · simp [State.irq]
  · rw [State.access_write_status]
    simp [State.irq, Status.clearOnes]
  · simp [State.irq]

/-! ### The engine's turn (10_state.md R42) -/

theorem engineTurn_decoded {w : Word} {i : Instr} (hp : s.pending = some w) (hdecode : decode w = .ok i) :
    engineTurn s = exec i s := by
  simp [engineTurn, hp, hdecode]

/-- A table word's bits above the command word's are dropped already. -/
theorem ofNat_mod_word (n : Nat) : BitVec.ofNat 32 (n % 2 ^ 32) = BitVec.ofNat 32 n :=
  BitVec.eq_of_toNat_eq (by simp)

theorem decodeTableWord_eq_some_iff {n : Nat} {i : Instr} :
    decodeTableWord 32 n = some i ↔ decode (BitVec.ofNat 32 n) = .ok i := by
  rw [decodeTableWord, ofNat_mod_word]
  cases decode (BitVec.ofNat 32 n) <;> simp

/-- Settles O6: the engine's turn on a pending word that decodes (`engineTurn_decoded`). -/
theorem stepRunsThePendingCommand : Obligations.StepRunsThePendingCommand := by
  refine ⟨fun s w i hp hdecode => ⟨fun rest hrest => ?_, fun hnone => ?_⟩, fun s n i htable => ?_⟩
  · simp only [step, hrest]
    exact engineTurn_decoded hp hdecode
  · simp only [step, hnone]
    exact engineTurn_decoded hp hdecode
  · rw [State.withFetchWord, ofNat_mod_word]
    exact engineTurn_decoded (s := s.accept (BitVec.ofNat 32 n)) rfl (decodeTableWord_eq_some_iff.1 htable)

end Sys2Proof.Machine
end

section
/-! The bus as the host sees it (O7, O12, O13, O14, O15, O19, O20) and the byte image of a register (O21): one equation
per kind of access, from which the statements follow. -/

namespace Sys2Proof.Machine

variable {s : State}

/-! ### Refused accesses (20_memory.md R67) -/

theorem wordAccess_eq_false {off : Offset} {strobes : BitVec 4} (h : off.toNat % 4 ≠ 0 ∨ strobes ≠ 0b1111#4) :
    wordAccess off strobes = false := by
  obtain hmisaligned | hnarrow := h
  · simp [wordAccess, hmisaligned]
  · simp [wordAccess, hnarrow]

/-- Settles O13: such an access is no word access (`wordAccess_eq_false`). -/
theorem misalignedOrNarrowAccessIsRefused : Obligations.MisalignedOrNarrowAccessIsRefused := by
  intro s off strobes v h
  simp [State.access, wordAccess_eq_false h]

/-! ### Reads (20_memory.md R69, R70, R75) -/

theorem State.busRead_cases (s : State) (off : Nat) :
    (∃ v, s.busRead off = s.answer v) ∨ s.busRead off = s.answerFree := by
  unfold State.busRead
  split_ifs
  · exact .inl ⟨_, rfl⟩
  · exact .inr rfl
  · cases s.mem.loadWord off with
    | none => exact .inr rfl
    | some v => exact .inl ⟨v, rfl⟩
  · exact .inl ⟨0, rfl⟩

/-- What a read can do: it is refused, or answers with a word or with a free value. -/
theorem State.access_read_cases (s : State) (off : Offset) (strobes : BitVec 4) :
    s.access (.read off strobes) = { s with rdata := 0, resp := .slverr } ∨
      (∃ v, s.access (.read off strobes) = s.answer v) ∨ s.access (.read off strobes) = s.answerFree := by
  cases hword : wordAccess off strobes with
  | false => exact .inl (by simp [State.access, hword])
  | true => exact .inr (by simpa [State.access, hword] using s.busRead_cases off.toNat)

/-- Settles O15, by the three things a read can do (`State.access_read_cases`). -/
theorem readsHaveNoSideEffects : Obligations.ReadsHaveNoSideEffects := by
  intro s off strobes
  obtain h | ⟨v, h⟩ | h := s.access_read_cases off strobes
  · simp only [h]
  · simp only [h]; rfl
  · simp only [h]; rfl

theorem State.access_read_word {off : Offset} (h : off.toNat % 4 = 0) :
    s.access (.read off 0b1111#4) = s.busRead off.toNat := by
  simp [State.access, wordAccess, h]

theorem inRam_iff {nw off : Nat} : inRam nw off = true ↔ 0x10000 ≤ off ∧ off < ramEnd nw := by simp [inRam]

theorem inRam_eq_false_iff {nw off : Nat} : inRam nw off = false ↔ off < 0x10000 ∨ ramEnd nw ≤ off := by
  rw [← Bool.not_eq_true, inRam_iff]
  omega

theorem State.busRead_reserved {off : Nat} (hcsr : 0x40 ≤ off) (hram : inRam s.nw off = false) :
    s.busRead off = s.answer 0 := by
  simp [State.busRead, hcsr, hram]

/-- No CSR lies in the operand RAM. -/
theorem not_csr_of_inRam {nw off : Nat} (hram : inRam nw off = true) : ¬off < 0x40 := by
  have hlo := (inRam_iff.1 hram).1
  omega

theorem State.busRead_ram_written {off : Nat} {v : Word} (hram : inRam s.nw off = true) (hidle : s.status.busy = false)
    (hv : s.mem.loadWord off = some v) : s.busRead off = s.answer v := by
  simp [State.busRead, not_csr_of_inRam hram, hram, hidle, hv]

theorem State.busRead_ram_free {off : Nat} (hram : inRam s.nw off = true)
    (h : s.status.busy = true ∨ s.mem.loadWord off = none) : s.busRead off = s.answerFree := by
  obtain hbusy | hunwritten := h
  · simp [State.busRead, not_csr_of_inRam hram, hram, hbusy]
  · simp [State.busRead, not_csr_of_inRam hram, hram, hunwritten]

/-- Settles O20: an aligned read of operand RAM with no value to give (`State.busRead_ram_free`). -/
theorem busyOrUnwrittenRamReadsAreFree : Obligations.BusyOrUnwrittenRamReadsAreFree := by
  intro s off halign hlo hhi h
  rw [State.access_read_word halign, State.busRead_ram_free (inRam_iff.2 ⟨hlo, hhi⟩) h]
  rfl

/-! ### The CSR map (10_state.md section 2) -/

theorem Ctrl.word_toNat (c : Ctrl) :
    c.word.toNat = 2 * (if c.doneie then 1 else 0) + 4 * (if c.errie then 1 else 0) := by
  obtain ⟨doneie, errie⟩ := c
  revert doneie errie
  decide

theorem Status.word_toNat (t : Status) :
    t.word.toNat = (if t.busy then 1 else 0) + 2 * (if t.done then 1 else 0) + 4 * (if t.err then 1 else 0) +
      8 * (if t.result then 1 else 0) + 16 * (if t.ovr then 1 else 0) := by
  obtain ⟨busy, done, err, result, ovr⟩ := t
  revert busy done err result ovr
  decide

theorem cfgWord_toNat (nw : Nat) : (cfgWord nw).toNat = nw % 2 ^ 16 + 8 * 2 ^ 16 := by
  have hlow : nw % 2 ^ 32 &&& 0xFFFF = nw % 2 ^ 16 := by
    rw [show 0xFFFF = 2 ^ 16 - 1 from rfl, Nat.and_two_pow_sub_one_eq_mod]
    omega
  rw [cfgWord, BitVec.toNat_or, BitVec.toNat_and, BitVec.toNat_ofNat,
    show (0xFFFF#32).toNat = 0xFFFF from rfl, show (0x00080000#32).toNat = 2 ^ 16 * 8 from rfl, hlow, Nat.or_comm,
    ← Nat.two_pow_add_eq_or_of_lt (Nat.mod_lt nw (Nat.two_pow_pos 16)), Nat.add_comm, Nat.mul_comm]

/-- An aligned read below 0x40 answers OKAY with the CSR's number. -/
theorem State.read_csr_toNat {off : Offset} {n : Nat} (h : (s.readCsr (off.toNat / 4)).toNat = n)
    (halign : off.toNat % 4 = 0 := by decide) (hcsr : off.toNat < 0x40 := by decide) :
    ((s.access (.read off 0b1111#4)).resp, (s.access (.read off 0b1111#4)).rdata.toNat) = (.okay, n) := by
  rw [State.access_read_csr halign hcsr, ← h, State.answer_resp, State.answer_rdata]

/-- Settles O12: each CSR's word as a number. -/
theorem csrReadsFollowTheMap : Obligations.CsrReadsFollowTheMap := by
  intro s rd bit
  have herrcode (c : ErrCode) : ((errNumber c).setWidth 32).toNat = (errNumber c).toNat :=
    BitVec.toNat_setWidth_of_le (by decide)
  have hsign : (s.sign.setWidth 32).toNat = s.sign.toNat := BitVec.toNat_setWidth_of_le (by decide)
  have hwinsz : (s.winsz.setWidth 32).toNat = s.winsz.toNat := BitVec.toNat_setWidth_of_le (by decide)
  refine ⟨State.read_csr_toNat rfl, State.read_csr_toNat s.ctrl.word_toNat, State.read_csr_toNat s.status.word_toNat,
    State.read_csr_toNat rfl, State.read_csr_toNat ((herrcode s.errcode).trans ?_), State.read_csr_toNat hsign,
    State.read_csr_toNat rfl, State.read_csr_toNat rfl, State.read_csr_toNat rfl, State.read_csr_toNat rfl,
    State.read_csr_toNat rfl, State.read_csr_toNat rfl, State.read_csr_toNat (?_ : (redNumber s.lastred).toNat = _),
    State.read_csr_toNat hwinsz, State.read_csr_toNat (cfgWord_toNat s.nw), State.read_csr_toNat rfl⟩
  · cases s.errcode <;> rfl
  · cases s.lastred <;> rfl

/-! ### Writes (20_memory.md R62, R63, R71) -/

/-- The offsets of the CSRs that a write can change (10_state.md section 2). -/
def writableCsrs : List Nat := [0x004, 0x008, 0x00C, 0x014, 0x018, 0x01C, 0x020]

theorem State.writeAt_ignored {off : Nat} (hcsr : off ∉ writableCsrs) (hram : inRam s.nw off = false) (v : Word) :
    s.writeAt off v = s := by
  simp only [writableCsrs, List.mem_cons, List.not_mem_nil, or_false, not_or] at hcsr
  simp [State.writeAt, hcsr, hram]

theorem State.access_write_ignored {off : Offset} (halign : off.toNat % 4 = 0) (hcsr : off.toNat ∉ writableCsrs)
    (hram : inRam s.nw off.toNat = false) (v : Word) :
    s.access (.write off 0b1111#4 v) = { s with resp := .okay } := by
  rw [State.access_write_word halign, State.writeAt_ignored hcsr hram]

/-- The read-only CSRs (10_state.md section 2). -/
def readOnlyCsrs : List Offset :=
  [0x000#17, 0x010#17, 0x024#17, 0x028#17, 0x02C#17, 0x030#17, 0x034#17, 0x038#17, 0x03C#17]

theorem readOnlyCsrs_not_writable : readOnlyCsrs.Forall fun off =>
    off.toNat % 4 = 0 ∧ off.toNat ∉ writableCsrs ∧ off.toNat < 0x10000 := by
  decide

/-- Settles O14: neither kind of offset is a writable CSR or lies in the operand RAM. -/
theorem reservedAndReadOnlyOffsetsIgnoreWrites : Obligations.ReservedAndReadOnlyOffsetsIgnoreWrites := by
  refine fun s off v => ⟨fun halign hcsr hout => ?_, fun hreadOnly => ?_⟩
  · have hram : inRam s.nw off.toNat = false := inRam_eq_false_iff.2 hout
    have hnot : off.toNat ∉ writableCsrs := fun hmem => by simp [writableCsrs] at hmem; omega
    refine ⟨?_, State.access_write_ignored halign hnot hram v⟩
    rw [State.access_read_word halign, State.busRead_reserved hcsr hram]
    rfl
  · obtain ⟨halign, hnot, hlt⟩ := List.forall_iff_forall_mem.1 readOnlyCsrs_not_writable off hreadOnly
    exact State.access_write_ignored halign hnot (inRam_eq_false_iff.2 (.inl hlt)) v

theorem State.writeAt_ram {off : Nat} (hram : inRam s.nw off = true) (v : Word) :
    s.writeAt off v = s.guarded { s with mem := s.mem.storeWord off v } := by
  have hlo := (inRam_iff.1 hram).1
  simp (disch := omega) only [State.writeAt, if_neg, hram, if_true]

theorem Memory.readByte_storeWord_disjoint {m : Memory} {a b : Nat} {w : Word} (h : b < a ∨ a + 4 ≤ b) :
    (m.storeWord a w).readByte b = m.readByte b :=
  Memory.readByte_store_disjoint h

/-- Settles O19: the write stores one word of memory, and the laws of the operand RAM say what is read after it. -/
theorem ramReadGivesTheLastWrite : Obligations.RamReadGivesTheLastWrite := by
  intro s off v hidle halign hlo hhi t
  have hram : inRam s.nw off.toNat = true := inRam_iff.2 ⟨hlo, hhi⟩
  have ht : t = { s with mem := s.mem.storeWord off.toNat v, resp := .okay } :=
    State.access_write_idle hidle halign (State.writeAt_ram hram v)
  have hmem : t.mem = s.mem.storeWord off.toNat v := by rw [ht]
  have htidle : t.status.busy = false := by rw [ht]; exact hidle
  have htram : inRam t.nw off.toNat = true := by rw [ht]; exact hram
  refine ⟨?_, fun a ha hne => ?_, fun a ha => ?_, by rw [ht]⟩
  · rw [State.access_read_word halign,
      State.busRead_ram_written htram htidle (hmem ▸ Memory.loadWord_storeWord_same v), State.answer_rdata]
  · rw [hmem, Memory.loadWord_storeWord_disjoint (by omega)]
  · rw [hmem, Memory.readByte_storeWord_disjoint ha]

/-! ### The byte image of a register (20_memory.md R65, R66) -/

theorem toNat_append_byte {n : Nat} (x : BitVec n) (b : Byte) : (x ++ b).toNat = x.toNat * 256 + b.toNat := by
  rw [BitVec.toNat_append, ← Nat.shiftLeft_add_eq_or_of_lt b.isLt, Nat.shiftLeft_eq]

/-- Horner's rule over words of four bytes is Horner's rule over bytes. -/
theorem foldl_bytesToWords (k : Nat) (bs : List Byte) (acc : Nat) (h : bs.length = 4 * k) :
    (bytesToWords bs).foldl (fun acc w => acc * 2 ^ 32 + w.toNat) acc =
      bs.foldl (fun acc b => acc * 256 + b.toNat) acc := by
  induction k generalizing bs acc with
  | zero => simp_all [bytesToWords]
  | succ k ih =>
    match bs, h with
    | b0 :: b1 :: b2 :: b3 :: rest, h =>
      have hword : acc * 2 ^ 32 + (b0 ++ b1 ++ b2 ++ b3).toNat =
          (((acc * 256 + b0.toNat) * 256 + b1.toNat) * 256 + b2.toNat) * 256 + b3.toNat := by
        simp only [toNat_append_byte]
        ring
      rw [bytesToWords, List.foldl_cons, ih rest _ (by simp at h; omega), hword]
      simp only [List.foldl_cons]

theorem foldl_replicate_zero (k : Nat) (bs : List Byte) :
    (List.replicate k 0#8 ++ bs).foldl (fun acc b => acc * 256 + b.toNat) 0 =
      bs.foldl (fun acc b => acc * 256 + b.toNat) 0 := by
  induction k with
  | zero => rfl
  | succ k ih => simpa [List.replicate_succ] using ih

/-- Settles O21: the padded string is a whole number of words, and its leading zeros add nothing. -/
theorem byteImageIsTheBigEndianInteger : Obligations.ByteImageIsTheBigEndianInteger := by
  intro nw bs hfits image
  have hlen : image.length = 4 * nw := by simp [image]; omega
  refine ⟨bytesToWords_length nw image hlen, flatMap_bytesToWords nw image hlen, ?_⟩
  calc magnitude (bytesToWords image)
      = image.foldl (fun acc b => acc * 256 + b.toNat) 0 := foldl_bytesToWords nw image 0 hlen
    _ = bs.foldl (fun acc b => acc * 256 + b.toNat) 0 := foldl_replicate_zero _ bs

/-! ### One step per event (20_memory.md R73) -/

theorem engineTurn_idle (h : s.pending = none) : engineTurn s = .next s := by simp [engineTurn, h]

/-- Settles O7: the next event, or the idle engine's turn (`engineTurn_idle`). -/
theorem otherEventsTakeOneStepEach : Obligations.OtherEventsTakeOneStepEach := by
  refine fun s rest => ⟨fun a h => ?_, fun h => ?_, fun hp => ⟨fun h => ?_, fun h => ?_⟩⟩
  · simp only [step, h]
  · simp only [step, h]
  · simp only [step, h]
    exact engineTurn_idle hp
  · simp only [step, h]
    exact engineTurn_idle (s := { s with inputs := rest }) hp

end Sys2Proof.Machine
end

section
/-! The encoding (O1, O2, O3, O4, O5, O9). Encoding and decoding are inverse to each other: the encoding of the
command an opcode selects is the word with its unused fields cleared (`encode_of_selectOpcode`), and its fields are
legal exactly when the command is well-formed (`fieldsOk_encode`). A row of R95's map selects the words with its
opcode that R96 lets pass (`opcodeRow_selects_iff`). -/

namespace Sys2Proof.Machine

variable {w : Word} {i : Instr}

/-! ### Encode, then decode -/

theorem flagsOf_getElem_zero (b : Bool) : (flagsOf b)[0] = b := by cases b <;> rfl

theorem selectOpcode_encode (i : Instr) : selectOpcode (encode i) = some i := by
  cases i <;> simp [encode, selectOpcode, flagBit, flagsOf_getElem_zero]

/-- A command is well-formed exactly when its encoding passes R96's checks. -/
theorem fieldsOk_encode (i : Instr) : fieldsOk i.fieldUse (encode i) = i.wellFormed := by
  cases i <;> simp [encode, fieldsOk, fieldOk, Instr.fieldUse, Instr.wellFormed, Laws.OpcodeRow.flagsOf_and]

/-- Settles O2: the opcode selects the command (`selectOpcode_encode`) and its fields are legal (`fieldsOk_encode`). -/
theorem decodeOfEncodeIsTheCommand : Obligations.DecodeOfEncodeIsTheCommand := fun i hwf =>
  (decode_eq_ok_iff _ i).2 ⟨selectOpcode_encode i, (fieldsOk_encode i).trans hwf⟩

/-- Settles O1: each word is the encoding of its command. -/
theorem sampleWordsDecodeAsTheSpecSays : Obligations.SampleWordsDecodeAsTheSpecSays := by
  have h := decodeOfEncodeIsTheCommand
  exact ⟨h (.modpow 0 1 2 3) rfl, h (.sqrloop 4 5 6 true) rfl, h .nop rfl, h (.clr 2) rfl, h (.modred 0 1 0) rfl,
    h (.mconst 5) rfl, h (.modsqr 2 2 3) rfl, h (.trialdiv 3) rfl, h (.mrround 3 4) rfl, h (.mrtest 3 true) rfl,
    h (.randcand 1 true) rfl, h .wfchk rfl⟩

/-! ### Decode, then encode -/

/-- A register field of a word, or zeros where the command does not use it. -/
def usedField (used : Bool) (f : RegField) : RegField := if used then f else 0#4

theorem usedField_of_fieldOk {used : Bool} {f : RegField} (h : fieldOk used f = true) : usedField used f = f := by
  cases used with
  | true => rfl
  | false => exact (eq_of_beq h).symm

theorem flagsOf_flagBit (w : Word) : flagsOf (flagBit w) = flagsField w &&& 0x01#8 := by
  rw [BitVec.and_one_eq_setWidth_ofBool_getLsbD, flagBit]
  cases (flagsField w).getLsbD 0 <;> rfl

theorem and_eq_self_of_and_not {f m : BitVec 8} (h : f &&& ~~~m = 0#8) : f &&& m = f := by
  rw [← BitVec.or_zero (x := f &&& m), ← h, ← BitVec.and_or_distrib_left, BitVec.or_not_self, BitVec.and_allOnes]

/-- The encoding of the command an opcode selects is the word itself with everything cleared that the command does
not use. -/
theorem encode_of_selectOpcode (h : selectOpcode w = some i) :
    encode i = packFields (opcField w) (usedField i.fieldUse.rd (rdField w)) (usedField i.fieldUse.ra (raField w))
      (usedField i.fieldUse.rb (rbField w)) (usedField i.fieldUse.rc (rcField w))
      (flagsField w &&& i.fieldUse.flags) := by
  have hself : BitVec.ofNat 8 (opcField w).toNat = opcField w := by simp
  unfold selectOpcode at h
  split at h <;> cases h
  all_goals
    next hopc =>
    rw [← hself, hopc]
    simp [encode, usedField, Instr.fieldUse, flagsOf_flagBit]

/-- Settles O3: what the command does not use is zero already, so `encode_of_selectOpcode` gives the word back. -/
theorem encodeOfDecodeIsTheWord : Obligations.EncodeOfDecodeIsTheWord := by
  intro w i h
  obtain ⟨hsel, hfields⟩ := (decode_eq_ok_iff w i).1 h
  have hword : encode i = w := by
    simp only [fieldsOk, Bool.and_eq_true, beq_iff_eq] at hfields
    obtain ⟨⟨⟨⟨hrd, hra⟩, hrb⟩, hrc⟩, hflags⟩ := hfields
    rw [encode_of_selectOpcode hsel, usedField_of_fieldOk hrd, usedField_of_fieldOk hra, usedField_of_fieldOk hrb,
      usedField_of_fieldOk hrc, and_eq_self_of_and_not hflags, packFields_fields]
  refine ⟨hword, ?_⟩
  rw [← fieldsOk_encode, hword, hfields]

/-! ### R96's checks -/

theorem opcField_encode_of_selectOpcode (h : selectOpcode w = some i) : opcField (encode i) = opcField w := by
  rw [encode_of_selectOpcode h, opcField_packFields]

theorem selectOpcode_eq_none_iff : selectOpcode w = none ↔ opcField w > 0x0B := by
  change _ ↔ 0x0B < (opcField w).toNat
  unfold selectOpcode
  split <;> simp only [reduceCtorEq, false_iff, true_iff, imp_false] at * <;> omega

theorem exists_selectOpcode_iff : (∃ i, selectOpcode w = some i) ↔ opcField w ≤ 0x0B := by
  rw [← Option.ne_none_iff_exists', Ne, selectOpcode_eq_none_iff, gt_iff_lt, BitVec.not_lt]

theorem fieldOk_iff {used : Bool} {f : RegField} : fieldOk used f = true ↔ r96Field used f := by
  revert used f; decide

/-- The decoder's field uses are R92's table. -/
theorem r92Row_encode (i : Instr) :
    r92Row (opcField (encode i)) =
      (i.fieldUse.rd, i.fieldUse.ra, i.fieldUse.rb, i.fieldUse.rc, i.fieldUse.flags) := by
  cases i <;> simp [encode, r92Row, Instr.fieldUse]

theorem fieldsOk_iff_r96Legal (h : selectOpcode w = some i) : fieldsOk i.fieldUse w = true ↔ R96Legal w := by
  simp [fieldsOk, R96Legal, ← opcField_encode_of_selectOpcode h, r92Row_encode, fieldOk_iff, and_assoc]

theorem decode_of_reserved_opcode (hopc : opcField w > 0x0B) : decode w = .error .illegalOpcode := by
  simp [decode, selectOpcode_eq_none_iff.2 hopc]

theorem decode_of_not_r96Legal (hopc : opcField w ≤ 0x0B) (hillegal : ¬R96Legal w) :
    decode w = .error .illegalEncoding := by
  obtain ⟨i, hsel⟩ := exists_selectOpcode_iff.2 hopc
  simp only [decode, hsel, if_neg (mt (fieldsOk_iff_r96Legal hsel).1 hillegal)]

theorem exists_decode_iff : (∃ i, decode w = .ok i) ↔ opcField w ≤ 0x0B ∧ R96Legal w := by
  constructor
  · rintro ⟨i, h⟩
    obtain ⟨hsel, hfields⟩ := (decode_eq_ok_iff w i).1 h
    exact ⟨exists_selectOpcode_iff.1 ⟨i, hsel⟩, (fieldsOk_iff_r96Legal hsel).1 hfields⟩
  · rintro ⟨hopc, hlegal⟩
    obtain ⟨i, hsel⟩ := exists_selectOpcode_iff.2 hopc
    exact ⟨i, (decode_eq_ok_iff w i).2 ⟨hsel, (fieldsOk_iff_r96Legal hsel).2 hlegal⟩⟩

theorem engineTurn_of_decode_error {s : State} {e : DecodeError} (hp : s.pending = some w) (h : decode w = .error e) :
    engineTurn s = .next (s.raiseError (decodeErrCode e)) := by
  simp [engineTurn, hp, h, fail]

/-- Settles O9: the opcode is reserved, or else R96's checks of the fields fail. -/
theorem illegalWordCompletesWithItsError : Obligations.IllegalWordCompletesWithItsError := by
  intro s w hp hillegal
  by_cases hopc : opcField w > 0x0B
  · refine ⟨_, engineTurn_of_decode_error hp (decode_of_reserved_opcode hopc), ?_⟩
    rw [if_pos hopc]
    rfl
  · have hdefined : opcField w ≤ 0x0B := BitVec.not_lt.1 hopc
    have hfields : ¬R96Legal w := fun hlegal => by
      obtain ⟨i, h⟩ := exists_decode_iff.2 ⟨hdefined, hlegal⟩
      exact hillegal i h
    refine ⟨_, engineTurn_of_decode_error hp (decode_of_not_r96Legal hdefined hfields), ?_⟩
    rw [if_neg hopc]
    rfl

/-! ### R95's opcode map -/

/-- The mask bits of a register field: all but the low three of a used field must be zero. -/
def fieldMask (used : Bool) : RegField := if used then 0x8#4 else 0xF#4

/-- The bits of a command word that R92's table fixes for an opcode. -/
def r92Mask (opc : BitVec 8) : Word :=
  packFields 0xFF (fieldMask (r92Row opc).1) (fieldMask (r92Row opc).2.1) (fieldMask (r92Row opc).2.2.1)
    (fieldMask (r92Row opc).2.2.2.1) (~~~(r92Row opc).2.2.2.2)

/-- Each row of R95's map is R92's row for its opcode. -/
theorem opcodeRows_eq_r92 : ∀ r ∈ opcodeRows,
    r.mask = r92Mask (opcField r.pattern) ∧ r.pattern = packFields (opcField r.pattern) 0 0 0 0 0 := by
  decide

theorem and_fieldMask_eq_zero_iff {used : Bool} {f : RegField} : f &&& fieldMask used = 0 ↔ r96Field used f := by
  revert used f; decide

theorem packFields_inj {opc opc' : BitVec 8} {rd ra rb rc rd' ra' rb' rc' : RegField} {flags flags' : BitVec 8} :
    packFields opc rd ra rb rc flags = packFields opc' rd' ra' rb' rc' flags' ↔
      opc = opc' ∧ rd = rd' ∧ ra = ra' ∧ rb = rb' ∧ rc = rc' ∧ flags = flags' := by
  constructor
  · intro h
    exact ⟨by simpa using congrArg opcField h, by simpa using congrArg rdField h, by simpa using congrArg raField h,
      by simpa using congrArg rbField h, by simpa using congrArg rcField h, by simpa using congrArg flagsField h⟩
  · rintro ⟨rfl, rfl, rfl, rfl, rfl, rfl⟩
    rfl

/-- A row selects the words with its opcode that pass R96's checks. -/
theorem opcodeRow_selects_iff {r : OpcodeRow} (hr : r ∈ opcodeRows) :
    r.selects w = true ↔ opcField r.pattern = opcField w ∧ R96Legal w := by
  obtain ⟨hmask, hpattern⟩ := opcodeRows_eq_r92 r hr
  have hopc : opcField w &&& 0xFF = opcField w := BitVec.and_allOnes
  conv_lhs =>
    rw [OpcodeRow.selects, beq_iff_eq, hpattern, hmask, r92Mask, ← packFields_fields w, packFields_and,
      packFields_inj, hopc, eq_comm]
  refine and_congr_right fun h => ?_
  simp only [and_fieldMask_eq_zero_iff, h]

/-- The map has one row for each defined opcode. -/
theorem exists_opcodeRow_iff {opc : BitVec 8} : (∃ r ∈ opcodeRows, opcField r.pattern = opc) ↔ opc ≤ 0x0B := by
  revert opc; decide

/-- The one row with a command's opcode carries its mnemonic. -/
theorem opcodeRows_of_instr (i : Instr) :
    (opcodeRows.filter fun r => opcField r.pattern == opcField (encode i)).map OpcodeRow.mnemonic = [i.mnemonic] := by
  cases i <;> rw [encode, opcField_packFields] <;> rfl

theorem selecting_rows_of_decode (h : decode w = .ok i) :
    (opcodeRows.filter fun r => r.selects w).map OpcodeRow.mnemonic = [i.mnemonic] := by
  have hlegal : R96Legal w := (exists_decode_iff.1 ⟨i, h⟩).2
  rw [← opcodeRows_of_instr i, (encodeOfDecodeIsTheWord w i h).1]
  refine congrArg _ (List.filter_congr fun r hr => ?_)
  rw [Bool.eq_iff_iff, opcodeRow_selects_iff hr, beq_iff_eq, and_iff_left hlegal]

/-- Settles O4: R96's checks as the decoder makes them, and R95's map as R96 has it (`opcodeRow_selects_iff`). -/
theorem decodingChecksInOrder : Obligations.DecodingChecksInOrder := by
  refine fun w => ⟨decode_of_reserved_opcode, decode_of_not_r96Legal, fun hopc hlegal => ?_, ?_,
    fun s e hp h => engineTurn_of_decode_error hp h⟩
  · obtain ⟨i, h⟩ := exists_decode_iff.2 ⟨hopc, hlegal⟩
    exact ⟨i, h, by rw [(encodeOfDecodeIsTheWord w i h).1], selecting_rows_of_decode h⟩
  · calc (∃ i, decode w = .ok i)
      _ ↔ opcField w ≤ 0x0B ∧ R96Legal w := exists_decode_iff
      _ ↔ (∃ r ∈ opcodeRows, opcField r.pattern = opcField w) ∧ R96Legal w := by rw [exists_opcodeRow_iff]
      _ ↔ ∃ r ∈ opcodeRows, r.selects w = true := by
        rw [← exists_and_right]
        refine exists_congr fun r => ?_
        rw [and_assoc]
        exact and_congr_right fun hr => (opcodeRow_selects_iff hr).symm

/-! ### The assembler's lines (30_encoding.md R99) -/

/-- Settles O5: the keyword is there exactly when the flag is set. -/
theorem assemblerLineStandsForTheCommand : Obligations.AssemblerLineStandsForTheCommand := by
  intro i
  cases i with
  | sqrloop d a c strict => cases strict <;> rfl
  | mrtest a random => cases random <;> rfl
  | randcand d blum => cases blum <;> rfl
  | _ => rfl

end Sys2Proof.Machine
end

section
/-! NOP and CLR (O27, O28). A word with a defined opcode stands for the command of that opcode exactly when it
matches its row of R95's map (`encodedAs_of_row`). CLR is a register write of 0 followed by completion, so it leaves
what `State.writeReg` leaves. -/

namespace Sys2Proof.Machine

/-! ### A row of R95's map, for the words with its opcode -/

/-- The words with a row's opcode that match the row are those that pass R96's checks (`opcodeRow_selects_iff`). -/
theorem encodedAs_of_row {name : String} {opc : BitVec 8} {mask pattern : Word} {f : Word → Instr}
    (hr : ⟨name, pattern, mask⟩ ∈ opcodeRows) (hpattern : opcField pattern = opc)
    (hselect : ∀ w, opcField w = opc → selectOpcode w = some (f w)) : EncodedAs opc mask pattern f := by
  intro w hopc
  have hmatch : w &&& mask = pattern ↔ fieldsOk (f w).fieldUse w = true :=
    calc w &&& mask = pattern
      _ ↔ OpcodeRow.selects ⟨name, pattern, mask⟩ w = true := beq_iff_eq.symm
      _ ↔ opcField pattern = opcField w ∧ R96Legal w := opcodeRow_selects_iff hr
      _ ↔ R96Legal w := and_iff_right (hpattern.trans hopc.symm)
      _ ↔ fieldsOk (f w).fieldUse w = true := (fieldsOk_iff_r96Legal (hselect w hopc)).symm
  simp only [decode, hselect w hopc]
  exact ⟨fun h => if_pos (hmatch.1 h), fun h => if_neg (mt hmatch.2 h)⟩

/-! ### Writing zero -/

theorem imageWords_zero (nw : Nat) : imageWords nw 0 = List.replicate nw 0#32 := by
  simp [imageWords, List.map_const']

theorem State.sameRam_complete (s : State) (cnt : Nat) : SameRam s (s.complete cnt) := ⟨rfl, rfl, rfl⟩

/-- A register write touches nothing that completion is about. -/
theorem Completed.of_writeReg {s t : State} {d : RegField} {v cnt : Nat} (h : Completed (s.writeReg d v) t cnt) :
    Completed s t cnt := { h with }

/-! ### The two commands (40_general.md) -/

/-- Settles O28: `x[d] <- 0` as the laws of `State.writeReg` give it, seen through the completion that follows. -/
theorem clrZeroesTheRegister : Obligations.ClrZeroesTheRegister := by
  refine ⟨encodedAs_of_row (name := "CLR") (by decide) rfl fun w hopc => by simp [selectOpcode, hopc], fun s d => ?_⟩
  have hram := (s.writeReg d 0).sameRam_complete 0
  refine ⟨(s.writeReg d 0).complete 0, rfl, ?_, ?_, ?_, ((s.writeReg d 0).completed_complete 0).of_writeReg, rfl⟩
  · rw [hram.regWords, State.regWords_writeReg_same, imageWords_zero]
  · rw [hram.val?, State.val?_writeReg_same (Nat.two_pow_pos _), Nat.cast_zero]
  · rw [hram.signBit, State.signBit_writeReg_same]

/-- Settles O27: NOP is completion with no entropy word taken. -/
theorem nopOnlyCompletes : Obligations.NopOnlyCompletes :=
  ⟨encodedAs_of_row (name := "NOP") (by decide) rfl fun w hopc => by simp [selectOpcode, hopc], fun _ => rfl⟩

end Sys2Proof.Machine
end

section
/-! MCONST, MODRED, MODSQR and MODPOW (O29, O30, O31, O32, O33). Once its sources are read and its checks are passed,
a modular command writes a residue to its destination, reports the path it took and the window width, and completes
(`ModularEnd`); the commands differ in the residue, in what they report and in the checks. -/

namespace Sys2Proof.Machine

variable {s t : State} {d a b c : RegField}

/-! ### The Montgomery constant (41_modexp.md R121) -/

/-- R121's defining property, over the naturals. -/
theorem mul_montgomeryConstant_mod {m : Nat} (h : m % 2 = 1) :
    m * (montgomeryConstant m).toNat % 2 ^ 32 = 0xFFFFFFFF := by
  calc m * (montgomeryConstant m).toNat % 2 ^ 32
    _ = (BitVec.ofNat 32 m * montgomeryConstant m).toNat := by
      rw [BitVec.toNat_mul, BitVec.toNat_ofNat, Nat.mod_mul_mod]
    _ = 0xFFFFFFFF := by rw [mul_montgomeryConstant m h]; rfl

/-- R121's defining property, for a register's value. -/
theorem mul_montgomeryConstant_toNat_mod {m : Int} (hm : 0 < m) (h : m % 2 = 1) :
    m * ((montgomeryConstant m.toNat).toNat : Int) % 2 ^ 32 = 0xFFFFFFFF := by
  obtain ⟨n, rfl⟩ := Int.eq_ofNat_of_zero_le hm.le
  exact_mod_cast mul_montgomeryConstant_mod (m := n) (by omega)

/-! ### How a modular command ends (41_modexp.md R124) -/

/-- `reportPath` reports as R124 says. -/
theorem State.pathReported_reportPath (s : State) (isTrivial : Bool) {m : Int} (hm : 0 < m) :
    PathReported s (s.reportPath isTrivial m.toNat) (isTrivial = true) m where
  trivially h := by
    rw [State.reportPath_lastred, State.reportPath_mconst, h]
    exact ⟨rfl, rfl⟩
  odd h hodd := by
    rw [State.reportPath_lastred, State.reportPath_mconst, Bool.eq_false_iff.2 h, show m.toNat % 2 = 1 by omega]
    exact ⟨rfl, mul_montgomeryConstant_toNat_mod hm hodd⟩
  even h heven := by
    rw [State.reportPath_lastred, State.reportPath_mconst, Bool.eq_false_iff.2 h, show m.toNat % 2 = 0 by omega]
    exact ⟨rfl, rfl⟩

/-- Completion of a command that has touched neither STATUS nor ERRCODE before. -/
theorem Completed.of_complete {s' : State} (cnt : Nat) (hstatus : s'.status = s.status := by rfl)
    (hcode : s'.errcode = s.errcode := by rfl) : Completed s (s'.complete cnt) cnt where
  busy := rfl
  done := rfl
  err := by rw [State.complete_status, hstatus]
  ovr := by rw [State.complete_status, hstatus]
  errcode := hcode
  rngcnt := saturate32_toNat cnt
  pending := rfl

/-- The end of a modular command with destination `d`, residue `y`, modulus `m` and window width `w`. -/
structure ModularEnd (s t : State) (d : RegField) (y : Int) (isTrivial : Prop) (m : Int) (w : BitVec 4) : Prop where
  value : t.val? d = some y
  signBit : t.signBit d = false
  path : PathReported s t isTrivial m
  winsz : t.winsz = w
  completed : Completed s t 0
  result : t.status.result = s.status.result

/-- A residue of a register's value fits a register (00_scope.md R8). -/
theorem State.residue_lt {m : Int} {v : Nat} (hc : s.val? c = some m) (hv : (v : Int) < m) : v < 2 ^ (32 * s.nw) := by
  have := State.natAbs_val?_lt hc
  omega

/-- MODSQR, SQRLOOP and MODPOW end so, whatever their residue is. -/
theorem State.modularEnd {m : Int} {v : Nat} (hc : s.val? c = some m) (hv : (v : Int) < m) (isTrivial : Bool)
    (w : BitVec 4) :
    ModularEnd s ((((s.writeReg d v).reportPath isTrivial m.toNat).setWinsz w).complete 0) d v (isTrivial = true) m
      w := by
  have hram : SameRam (s.writeReg d v)
      ((((s.writeReg d v).reportPath isTrivial m.toNat).setWinsz w).complete 0) := ⟨by simp, by simp, by simp⟩
  have hpath := (s.writeReg d v).pathReported_reportPath isTrivial (m := m) (by omega)
  exact {
    value := (hram.val? d).trans (State.val?_writeReg_same (State.residue_lt hc hv))
    signBit := (hram.signBit d).trans State.signBit_writeReg_same
    path := { hpath with }
    winsz := rfl
    completed := .of_complete 0 (by simp) (by simp)
    result := by simp }

/-! ### The commands -/

/-- Settles O33: the bounds of a row decide every comparison the width function makes on it. -/
theorem windowWidthsFollowTheTable : Obligations.WindowWidthsFollowTheTable := by
  intro l
  unfold windowWidth
  refine ⟨?_, ?_, ?_, ?_, ?_, ?_, ?_⟩ <;> intros <;> simp (disch := omega) only [if_pos, if_neg]

/-- Settles O29: the checks of R121 in their order, and the constant's defining property. -/
theorem mconstGivesTheMontgomeryConstant : Obligations.MconstGivesTheMontgomeryConstant := by
  refine ⟨encodedAs_of_row (name := "MCONST") (by decide) rfl fun w hopc => by simp [selectOpcode, hopc],
    fun s c m hc => ?_⟩
  have hexec : exec (.mconst c) s = if m ≤ 0 then fail s .invalidModulus else if m % 2 = 0 then fail s .evenModulus
      else finish { s with mconst := montgomeryConstant m.toNat } 0 := withSource_some _ hc
  refine ⟨fun hm => by rw [hexec, if_pos hm, fail], fun hm heven => ?_, fun hm hodd => ?_⟩
  · rw [hexec, if_neg (by omega), if_pos heven, fail]
  · rw [hexec, if_neg (by omega), if_neg (by omega)]
    exact ⟨_, rfl, mul_montgomeryConstant_toNat_mod hm hodd, .of_complete 0, rfl, rfl, rfl, rfl, rfl⟩

/-- Settles O30: the checks of R122 in their order, and the write of a residue. -/
theorem modredGivesTheFloorModulus : Obligations.ModredGivesTheFloorModulus := by
  refine ⟨encodedAs_of_row (name := "MODRED") (by decide) rfl fun w hopc => by simp [selectOpcode, hopc],
    fun s d a c x m ha hc => ?_⟩
  have hexec : exec (.modred d a c) s = if m = 0 then fail s .divByZero else if m < 0 then fail s .invalidModulus
      else finish (((s.writeReg d (x % m).toNat).setLastred .barrett).setWinsz 0) 0 :=
    (withSource_some _ ha).trans (withSource_some _ hc)
  refine ⟨fun hm => by rw [hexec, if_pos hm, fail], fun hm => ?_, fun hm => ?_⟩
  · rw [hexec, if_neg (by omega), if_pos hm, fail]
  · have hnonneg : 0 ≤ x % m := Int.emod_nonneg x hm.ne'
    have hlt : x % m < m := Int.emod_lt_of_pos x hm
    have hval := State.val?_writeReg_same (d := d) (State.residue_lt (v := (x % m).toNat) hc (by omega))
    rw [Int.toNat_of_nonneg hnonneg] at hval
    rw [hexec, if_neg (by omega), if_neg (by omega)]
    exact ⟨_, rfl, hval, hnonneg, hlt, State.signBit_writeReg_same (v := (x % m).toNat), rfl, rfl, rfl,
      .of_complete 0, rfl⟩

/-- Settles O31: the check of R128, and the end of a modular command. -/
theorem modsqrGivesTheSquareModulo : Obligations.ModsqrGivesTheSquareModulo := by
  refine ⟨encodedAs_of_row (name := "MODSQR") (by decide) rfl fun w hopc => by simp [selectOpcode, hopc],
    fun s d a c x m ha hc => ?_⟩
  have hexec : exec (.modsqr d a c) s = if m ≤ 0 then fail s .invalidModulus
      else finish (((s.writeReg d (x * x % m).toNat).reportPath (m == 1) m.toNat).setWinsz 0) 0 :=
    (withSource_some _ ha).trans (withSource_some _ hc)
  refine ⟨fun hm => by rw [hexec, if_pos hm, fail], fun hm => ?_⟩
  have hnonneg : 0 ≤ x * x % m := Int.emod_nonneg _ hm.ne'
  have hlt : x * x % m < m := Int.emod_lt_of_pos _ hm
  have hend := State.modularEnd (d := d) (v := (x * x % m).toNat) hc (by omega) (m == 1) 0
  rw [Int.toNat_of_nonneg hnonneg, beq_iff_eq] at hend
  rw [hexec, if_neg (by omega)]
  exact ⟨_, rfl, hend.value, hend.signBit, hend.path, hend.winsz, hend.completed, hend.result⟩

/-- R129's result over the integers. -/
theorem modpowResult_eq (g : Int) {e m : Int} (hm : 0 < m) (he : 0 ≤ e) :
    (modpowResult g e.toNat m.toNat : Int) = if m = 1 then 0 else if e = 0 then 1 else (g % m) ^ e.toNat % m := by
  have hnonneg : 0 ≤ g % m := Int.emod_nonneg g hm.ne'
  have hm1 : m.toNat = 1 ↔ m = 1 := by omega
  have he0 : e.toNat = 0 ↔ e = 0 := by omega
  simp only [modpowResult, powMod_eq, hm1, he0]
  split_ifs
  · rfl
  · rfl
  · push_cast
    rw [Int.toNat_of_nonneg hm.le, Int.toNat_of_nonneg hnonneg]

theorem modpowTrivial_iff {e m : Int} (hm : 0 < m) (he : 0 ≤ e) :
    modpowTrivial e.toNat m.toNat = true ↔ m = 1 ∨ e = 0 := by
  simp only [modpowTrivial, Bool.or_eq_true, beq_iff_eq]
  omega

/-- Settles O32: the checks of R129 in their order, and the end of a modular command. -/
theorem modpowGivesThePowerModulo : Obligations.ModpowGivesThePowerModulo := by
  refine ⟨encodedAs_of_row (name := "MODPOW") (by decide) rfl fun w hopc => by simp [selectOpcode, hopc],
    fun s d a b c g e m ha hb hc => ?_⟩
  have hexec : exec (.modpow d a b c) s =
      if m ≤ 0 then fail s .invalidModulus
      else if e < 0 then fail s .negExponent
      else finish (((s.writeReg d (modpowResult g e.toNat m.toNat)).reportPath (modpowTrivial e.toNat m.toNat)
        m.toNat).setWinsz (if modpowTrivial e.toNat m.toNat then 0 else windowWidth (bitlen e.toNat))) 0 :=
    (withSource_some _ ha).trans ((withSource_some _ hb).trans (withSource_some _ hc))
  refine ⟨fun hm => by rw [hexec, if_pos hm, fail], fun hm he => ?_, fun hm he => ?_⟩
  · rw [hexec, if_neg (by omega), if_pos he, fail]
  · have hlt := modpowResult_lt g e.toNat m.toNat (by omega)
    have htrivial := modpowTrivial_iff hm he
    generalize hw : (if modpowTrivial e.toNat m.toNat then 0 else windowWidth (bitlen e.toNat)) = w at hexec
    have hend := State.modularEnd (d := d) (v := modpowResult g e.toNat m.toNat) hc (by omega)
      (modpowTrivial e.toNat m.toNat) w
    rw [modpowResult_eq g hm he, htrivial] at hend
    rw [hexec, if_neg (by omega), if_neg (by omega)]
    exact ⟨_, rfl, hend.value, hend.signBit, hend.path, fun h => hend.winsz.trans (hw ▸ if_pos (htrivial.2 h)),
      fun hm1 he0 => hend.winsz.trans (hw ▸ if_neg (mt htrivial.1 (not_or.2 ⟨hm1, he0⟩))), hend.completed,
      hend.result⟩

end Sys2Proof.Machine
end

section
/-! The datapath algorithms (O57, O58, O59). Two of them read a number digit by digit, most significant first, R123's
limbs and R127's exponent bits: `foldl_digitsFromTop` says what a fold over the digits computes. Barrett's estimate of
the quotient is at most two too small (`barrettQuotient_mul_le`, `lt_barrettQuotient_add_mul`), so two subtractions
are enough; each round of REDC clears one limb by adding a multiple of `m` (`limb_dvd_add_mul`); a sliding window
multiplies by the odd power that its run of bits spells (`windowScan_pow`). -/

namespace Sys2Proof.Machine

/-! ### Digits, most significant first -/

/-- A fold whose step takes `F y` to `F` of `y` with one digit more takes `F 0` to `F x`, over the digits of `x`. -/
theorem foldl_digitsFromTop {α : Type} {B : Nat} (F : Nat → α) (step : α → Nat → α)
    (hstep : ∀ y w, w < B → step (F y) w = F (y * B + w)) {n x : Nat} (hB : 0 < B) (hx : x < B ^ n) :
    ((List.range n).map fun j => x / B ^ (n - 1 - j) % B).foldl step (F 0) = F x := by
  have hprefix (k : Nat) (hk : k ≤ n) :
      ((List.range k).map fun j => x / B ^ (n - 1 - j) % B).foldl step (F 0) = F (x / B ^ (n - k)) := by
    induction k with
    | zero => simp [Nat.div_eq_of_lt hx]
    | succ k ih =>
      have hdiv : x / B ^ (n - k) = x / B ^ (n - 1 - k) / B := by
        rw [Nat.div_div_eq_div_mul, ← Nat.pow_succ, show (n - 1 - k).succ = n - k by omega]
      rw [List.range_succ, List.map_append, List.foldl_append, ih (by omega), List.map_singleton, List.foldl_cons,
        List.foldl_nil, hstep _ _ (Nat.mod_lt _ hB), hdiv, Nat.div_add_mod', show n - (k + 1) = n - 1 - k by omega]
  simpa using hprefix n le_rfl

/-! ### Limbs (41_modexp.md R123) -/

theorem limb_pos : 0 < limb := by decide

theorem limb_pow (k : Nat) : limb ^ k = 2 ^ (32 * k) := by rw [limb, ← Nat.pow_mul]

theorem lt_limb_pow_limbsOf (m : Nat) : m < limb ^ limbsOf m := by
  rw [limb_pow]
  exact (lt_two_pow_bitlen m).trans_le (Nat.pow_le_pow_right (by omega) (by unfold limbsOf wordsOf; omega))

theorem limbsOf_pos {m : Nat} (hm : 0 < m) : 0 < limbsOf m := by
  have := bitlen_pos hm
  unfold limbsOf wordsOf
  omega

/-- The top limb is not zero. -/
theorem limb_pow_le {m : Nat} (hm : 0 < m) : limb ^ (limbsOf m - 1) ≤ m := by
  have hpos := bitlen_pos hm
  rw [limb_pow]
  calc 2 ^ (32 * (limbsOf m - 1))
    _ ≤ 2 ^ (bitlen m - 1) := Nat.pow_le_pow_right (by omega) (by unfold limbsOf wordsOf; omega)
    _ ≤ m := two_pow_le_of_bitlen (by omega)

/-! ### Barrett reduction (41_modexp.md R123) -/

section
variable {m x : Nat}

/-- R123's estimate of `x div m`. -/
def barrettQuotient (m x : Nat) : Nat := x / limb ^ (limbsOf m - 1) * barrettMu m / limb ^ (limbsOf m + 1)

theorem limb_pow_mul (hm : 0 < m) : limb ^ (limbsOf m - 1) * limb ^ (limbsOf m + 1) = limb ^ (2 * limbsOf m) := by
  have := limbsOf_pos hm
  rw [← Nat.pow_add]
  congr 1
  omega

theorem subtractUpTo_eq_mod {n r : Nat} (h : r < (n + 1) * m) : subtractUpTo m n r = r % m := by
  induction n generalizing r with
  | zero =>
    rw [Nat.zero_add, Nat.one_mul] at h
    exact (Nat.mod_eq_of_lt h).symm
  | succ n ih =>
    unfold subtractUpTo
    split
    · next hle => rw [ih (by rw [Nat.add_mul] at h; omega), ← Nat.mod_eq_sub_mod hle]
    · next hlt => exact (Nat.mod_eq_of_lt (by omega)).symm

/-- Rounding down three times never overestimates the quotient. -/
theorem barrettQuotient_mul_le (hm : 0 < m) : barrettQuotient m x * m ≤ x := by
  set A := limb ^ (limbsOf m - 1)
  set C := limb ^ (limbsOf m + 1)
  have hAC : A * C = limb ^ (2 * limbsOf m) := limb_pow_mul hm
  have hx : x / A * A ≤ x := Nat.div_mul_le_self x A
  have hmu : barrettMu m * m ≤ A * C := hAC ▸ Nat.div_mul_le_self _ m
  have hq : barrettQuotient m x * C ≤ x / A * barrettMu m := Nat.div_mul_le_self _ C
  have hpos : 0 < A * C := hAC ▸ Nat.pow_pos limb_pos
  refine Nat.le_of_mul_le_mul_right ?_ hpos
  calc barrettQuotient m x * m * (A * C)
    _ = barrettQuotient m x * C * (m * A) := by ring
    _ ≤ x / A * barrettMu m * (m * A) := Nat.mul_le_mul_right _ hq
    _ = x / A * A * (barrettMu m * m) := by ring
    _ ≤ x * (A * C) := Nat.mul_le_mul hx hmu

/-- The estimate is at most two too small. -/
theorem lt_barrettQuotient_add_mul (hm : 0 < m) (hx : x < limb ^ (2 * limbsOf m)) :
    x < (barrettQuotient m x + 3) * m := by
  set A := limb ^ (limbsOf m - 1)
  set C := limb ^ (limbsOf m + 1)
  set q := barrettQuotient m x
  have hAC : A * C = limb ^ (2 * limbsOf m) := limb_pow_mul hm
  have hApos : 0 < A := Nat.pow_pos limb_pos
  have hCpos : 0 < C := Nat.pow_pos limb_pos
  have hxA : x ≤ A * (x / A + 1) := (Nat.lt_mul_div_succ x hApos).le
  have hmu : A * C ≤ m * (barrettMu m + 1) := hAC ▸ (Nat.lt_mul_div_succ _ hm).le
  have hq : x / A * barrettMu m < C * (q + 1) := Nat.lt_mul_div_succ _ hCpos
  have hxC : x / A < C := Nat.div_lt_of_lt_mul (hAC ▸ hx)
  have hmuC : barrettMu m ≤ C :=
    Nat.div_le_of_le_mul (hAC ▸ Nat.mul_le_mul_right C (limb_pow_le hm))
  refine Nat.lt_of_mul_lt_mul_right (a := C) ?_
  calc x * C
    _ ≤ A * (x / A + 1) * C := Nat.mul_le_mul_right _ hxA
    _ = (x / A + 1) * (A * C) := by ring
    _ ≤ (x / A + 1) * (m * (barrettMu m + 1)) := Nat.mul_le_mul_left _ hmu
    _ = (x / A * barrettMu m + x / A + barrettMu m + 1) * m := by ring
    _ < (C * (q + 1) + C + C) * m := Nat.mul_lt_mul_of_pos_right (by omega) hm
    _ = (q + 3) * m * C := by ring

/-- A difference below `C` can be had from the two remainders modulo `C`. -/
theorem toNat_sub_mod {C y : Nat} (hle : y ≤ x) (hlt : x - y < C) :
    (let r : Int := (x % C : Nat) - (y % C : Nat); if r < 0 then r + (C : Nat) else r).toNat = x - y := by
  dsimp only
  obtain ⟨r, rfl⟩ := Nat.exists_eq_add_of_le hle
  rw [Nat.add_sub_cancel_left] at hlt ⊢
  have hy : y % C < C := Nat.mod_lt _ (by omega)
  rw [Nat.add_mod, Nat.mod_eq_of_lt hlt]
  by_cases hwrap : y % C + r < C
  · rw [Nat.mod_eq_of_lt hwrap]
    split <;> omega
  · rw [Nat.mod_eq_sub_mod (by omega), Nat.mod_eq_of_lt (by omega)]
    split <;> omega

/-- One Barrett step reduces. -/
theorem barrettStep_eq_mod (hm : 0 < m) (hx : x < limb ^ (2 * limbsOf m)) : barrettStep m x = x % m := by
  have hle : barrettQuotient m x * m ≤ x := barrettQuotient_mul_le hm
  have hlt : x < (barrettQuotient m x + 3) * m := lt_barrettQuotient_add_mul hm hx
  rw [Nat.add_mul] at hlt
  have hfit : 3 * m < limb ^ (limbsOf m + 1) := by
    have h3 : 3 ≤ limb := by decide
    calc 3 * m
      _ < 3 * limb ^ limbsOf m := Nat.mul_lt_mul_of_pos_left (lt_limb_pow_limbsOf m) (by omega)
      _ ≤ limb ^ (limbsOf m + 1) := by rw [Nat.pow_succ']; exact Nat.mul_le_mul_right _ h3
  have hdiff : x - barrettQuotient m x * m < limb ^ (limbsOf m + 1) := by omega
  calc barrettStep m x
    _ = subtractUpTo m 2 (x - barrettQuotient m x * m) := congrArg (subtractUpTo m 2) (toNat_sub_mod hle hdiff)
    _ = (x - barrettQuotient m x * m) % m := subtractUpTo_eq_mod (by omega)
    _ = x % m := by
      rw [Nat.mul_comm] at hle ⊢
      exact Nat.sub_mul_mod hle

/-- So do the successive top portions of a longer operand, each one limb longer than the last. -/
theorem barrettLong_eq_mod (hm : 0 < m) : barrettLong m x = x % m := by
  refine foldl_digitsFromTop (· % m) (fun r w => barrettStep m (r * limb + w)) (fun y w hw => ?_) limb_pos
    (lt_limb_pow_limbsOf x)
  have hfit : y % m * limb + w < limb ^ (2 * limbsOf m) := by
    have hpos := limbsOf_pos hm
    calc y % m * limb + w
      _ < (y % m + 1) * limb := by rw [Nat.add_mul]; omega
      _ ≤ limb ^ limbsOf m * limb :=
        Nat.mul_le_mul_right _ ((Nat.mod_lt y hm).trans (lt_limb_pow_limbsOf m))
      _ ≤ limb ^ (2 * limbsOf m) := by
        rw [← Nat.pow_succ]; exact Nat.pow_le_pow_right limb_pos (by omega)
  calc barrettStep m (y % m * limb + w)
    _ = (y % m * limb + w) % m := barrettStep_eq_mod hm hfit
    _ = (y * limb + w) % m := by rw [Nat.add_mod, Nat.mod_mul_mod, ← Nat.add_mod]

end

/-- Settles O57: both of R123's reductions give `|x| mod m`, and a negative operand its complement. -/
theorem barrettReductionIsTheModulus : Obligations.BarrettReductionIsTheModulus := by
  intro x m hm
  have habs : (if x.natAbs < limb ^ (2 * limbsOf m) then barrettStep m x.natAbs else barrettLong m x.natAbs) =
      x.natAbs % m := by
    split
    · next hx => exact barrettStep_eq_mod hm hx
    · exact barrettLong_eq_mod hm
  have hlt : x.natAbs % m < m := Nat.mod_lt _ hm
  simp only [barrettMod, habs]
  obtain hx | hx := lt_or_ge x 0
  · obtain ⟨n, rfl⟩ := Int.exists_eq_neg_ofNat hx.le
    rw [Int.natAbs_neg, Int.natAbs_natCast] at hlt ⊢
    simp only [Int.neg_emod, Int.natCast_dvd_natCast, Nat.dvd_iff_mod_eq_zero, Int.natAbs_natCast]
    split_ifs <;> omega
  · rw [if_neg (by omega)]
    push_cast
    rw [abs_of_nonneg hx]

/-! ### Montgomery reduction (41_modexp.md R126) -/

section
variable {m t : Nat}

/-- The multiple of `m` that R126 adds clears the lowest limb. -/
theorem limb_dvd_add_mul (hodd : m % 2 = 1) (t : Nat) :
    limb ∣ t + t % limb * (montgomeryConstant m).toNat % limb * m := by
  have hneg : limb ∣ m * (montgomeryConstant m).toNat + 1 := by
    have := mul_montgomeryConstant_mod hodd
    unfold limb
    omega
  have hmod : t + t % limb * (montgomeryConstant m).toNat % limb * m ≡
      t * (m * (montgomeryConstant m).toNat + 1) [MOD limb] :=
    calc t + t % limb * (montgomeryConstant m).toNat % limb * m
      _ ≡ t + t * (montgomeryConstant m).toNat * m [MOD limb] :=
        (((Nat.mod_modEq _ _).trans ((Nat.mod_modEq _ _).mul_right _)).mul_right m).add_left t
      _ = t * (m * (montgomeryConstant m).toNat + 1) := by ring
  exact (hmod.dvd_iff dvd_rfl).2 (dvd_mul_of_dvd_right hneg t)

theorem redcRounds_succ (m n i u : Nat) : redcRounds m (n + 1) i (limb ^ i * u) =
    redcRounds m n (i + 1) (limb ^ i * (u + u % limb * (montgomeryConstant m).toNat % limb * m)) := by
  rw [redcRounds, Nat.mul_div_cancel_left _ (Nat.pow_pos limb_pos), Nat.mul_add, Nat.mul_comm (limb ^ i) (_ * m)]

/-- `n` rounds add a multiple of `m` and clear `n` limbs more. -/
theorem redcRounds_spec (hodd : m % 2 = 1) (n i : Nat) (hdvd : limb ^ i ∣ t) :
    ∃ q < limb ^ n, redcRounds m n i t = t + q * m * limb ^ i ∧ limb ^ (i + n) ∣ redcRounds m n i t := by
  induction n generalizing i t with
  | zero => exact ⟨0, by simp, by simp [redcRounds], by simpa [redcRounds] using hdvd⟩
  | succ n ih =>
    obtain ⟨u, rfl⟩ := hdvd
    have hlt : u % limb * (montgomeryConstant m).toNat % limb < limb := Nat.mod_lt _ limb_pos
    have hclear := limb_dvd_add_mul hodd u
    rw [redcRounds_succ]
    generalize u % limb * (montgomeryConstant m).toNat % limb = c at hlt hclear ⊢
    obtain ⟨q, hq, heq, hdvd⟩ := ih (i + 1) (t := limb ^ i * (u + c * m))
      (by rw [Nat.pow_succ]; exact Nat.mul_dvd_mul_left _ hclear)
    refine ⟨c + limb * q, ?_, ?_, ?_⟩
    · calc c + limb * q
        _ < limb * (q + 1) := by rw [Nat.mul_add]; omega
        _ ≤ limb ^ (n + 1) := by rw [Nat.pow_succ']; exact Nat.mul_le_mul_left _ hq
    · rw [heq]
      ring
    · rw [show i + (n + 1) = i + 1 + n by omega]
      exact hdvd

/-- REDC takes `R` out, up to multiples of `m`, and leaves a residue. -/
theorem redc_spec (hodd : m % 2 = 1) (ht : t < m * limb ^ limbsOf m) :
    redc m t < m ∧ redc m t * limb ^ limbsOf m ≡ t [MOD m] := by
  set R := limb ^ limbsOf m with hR
  have hRpos : 0 < R := Nat.pow_pos limb_pos
  obtain ⟨q, hq, heq, u, hu⟩ := redcRounds_spec (t := t) hodd (limbsOf m) 0 (by simp)
  rw [Nat.zero_add, ← hR] at hu
  rw [Nat.pow_zero, Nat.mul_one] at heq
  have hredc : redc m t = if u ≥ m then u - m else u := by
    rw [redc, ← hR, hu, Nat.mul_div_cancel_left _ hRpos]
  have huR : R * u = t + q * m := hu.symm.trans heq
  have hlt : u < 2 * m := by
    have hqm : q * m ≤ R * m := Nat.mul_le_mul_right m hq.le
    refine Nat.lt_of_mul_lt_mul_left (a := R) ?_
    calc R * u
      _ < m * R + R * m := by omega
      _ = R * (2 * m) := by ring
  have hmod : redc m t ≡ u [MOD m] := by
    rw [hredc]
    split
    · next hge => exact (Nat.mod_eq_sub_mod hge).symm
    · rfl
  refine ⟨by rw [hredc]; split <;> omega, ?_⟩
  calc redc m t * R
    _ ≡ u * R [MOD m] := hmod.mul_right R
    _ = t + q * m := by rw [Nat.mul_comm, huR]
    _ ≡ t [MOD m] := Nat.add_mul_mod_self_right t q m

/-- `R` is invertible modulo an odd `m`. -/
theorem coprime_limb_pow (hodd : m % 2 = 1) (k : Nat) : Nat.gcd m (limb ^ k) = 1 := by
  rw [limb_pow]
  exact Nat.Coprime.pow_right _ (Nat.coprime_two_right.2 (Nat.odd_iff.2 hodd))

theorem montgomeryProduct_eq (hodd : m % 2 = 1) (a b : Nat) : montgomeryProduct m a b = a * b % m := by
  set R := limb ^ limbsOf m with hR
  have hmR : m < R := lt_limb_pow_limbsOf m
  have hlt (a : Nat) : toMontgomery m a < m := Nat.mod_lt _ (by omega)
  obtain ⟨hmul, hmulR⟩ := redc_spec (t := toMontgomery m a * toMontgomery m b) hodd
    (Nat.mul_lt_mul'' (hlt a) ((hlt b).trans hmR))
  obtain ⟨hprod, hprodR⟩ := redc_spec (t := montMul m (toMontgomery m a) (toMontgomery m b)) hodd
    (hmul.trans_le (Nat.le_mul_of_pos_right m (by omega)))
  have hRR : montgomeryProduct m a b * R * R ≡ a * b * R * R [MOD m] :=
    calc montgomeryProduct m a b * R * R
      _ ≡ montMul m (toMontgomery m a) (toMontgomery m b) * R [MOD m] := hprodR.mul_right R
      _ ≡ toMontgomery m a * toMontgomery m b [MOD m] := hmulR
      _ ≡ a * R * (b * R) [MOD m] := (Nat.mod_modEq _ _).mul (Nat.mod_modEq _ _)
      _ = a * b * R * R := by ring
  have hcop := coprime_limb_pow hodd (limbsOf m)
  have hmod := (hRR.cancel_right_of_coprime hcop).cancel_right_of_coprime hcop
  exact (Nat.mod_eq_of_lt hprod).symm.trans hmod

end

/-- Settles O58: REDC takes `R` out of its operand (`redc_spec`), and a product out of the domain. -/
theorem montgomeryReductionIsCorrect : Obligations.MontgomeryReductionIsCorrect := fun _ hodd =>
  ⟨fun _ ht => redc_spec hodd ht, montgomeryProduct_eq hodd⟩

/-! ### Sliding-window exponentiation (41_modexp.md R127) -/

section
variable {m g v : Nat} {bits : List Bool}

/-- The bits of `e` spell `e`. -/
theorem runValue_bitsFromTop (e : Nat) : runValue (bitsFromTop e) = e := by
  have h := foldl_digitsFromTop (B := 2) (fun y => y) (fun v w => 2 * v + w) (fun y w _ => by ring) (by omega)
    (lt_two_pow_bitlen e)
  rw [List.foldl_map] at h
  simpa only [runValue, bitsFromTop, List.foldl_map, Nat.toNat_testBit] using h

theorem foldl_bits (v : Nat) (bits : List Bool) :
    bits.foldl (fun v b => 2 * v + b.toNat) v = v * 2 ^ bits.length + runValue bits := by
  induction bits using List.reverseRecOn with
  | nil => simp [runValue]
  | append_singleton bits b ih =>
    simp only [runValue, List.foldl_append, List.foldl_cons, List.foldl_nil, List.length_append,
      List.length_singleton] at ih ⊢
    rw [ih, Nat.pow_succ]
    ring

theorem runValue_append (run rest : List Bool) :
    runValue (run ++ rest) = runValue run * 2 ^ rest.length + runValue rest := by
  rw [runValue, List.foldl_append, foldl_bits]
  rfl

theorem runValue_lt (bits : List Bool) : runValue bits < 2 ^ bits.length := by
  induction bits using List.reverseRecOn with
  | nil => simp [runValue]
  | append_singleton bits b ih =>
    have hb : runValue [b] < 2 := by cases b <;> decide
    rw [runValue_append, List.length_append, Nat.pow_add, List.length_singleton]
    omega

theorem squareRun_pow (n v : Nat) : squareRun m n (g ^ v % m) = g ^ (v * 2 ^ n) % m := by
  induction n generalizing v with
  | zero => simp [squareRun]
  | succ n ih => rw [squareRun, ← Nat.mul_mod, ← Nat.pow_add, ih, Nat.pow_succ', ← Nat.mul_assoc, Nat.mul_two]

theorem oddPowersFrom_getD (n : Nat) {i : Nat} (hi : i < n) (v : Nat) :
    (oddPowersFrom m g n (g ^ v % m)).getD i 0 = g ^ (v + 2 * i) % m := by
  induction n generalizing i v with
  | zero => omega
  | succ n ih =>
    cases i with
    | zero => rfl
    | succ i =>
      have hnext : g ^ v % m * (g * g % m) % m = g ^ (v + 2) % m := by rw [← Nat.mul_mod, Nat.pow_add, Nat.pow_two]
      rw [oddPowersFrom, List.getD_cons_succ, hnext, ih (by omega), show v + 2 + 2 * i = v + 2 * (i + 1) by ring]

/-- A run is a part at the front, of at most `w` bits, that ends in a 1. -/
theorem longestRun_spec {w : Nat} (hw : 0 < w) (rest : List Bool) :
    ∃ init rest' : List Bool, longestRun w (true :: rest) = init ++ [true] ∧ init.length < w ∧
      init ++ [true] ++ rest' = true :: rest := by
  have hrun : longestRun w (true :: rest) = ((true :: rest).take w).rdropWhile (!·) := rfl
  have hne : longestRun w (true :: rest) ≠ [] := by
    obtain ⟨w, rfl⟩ := Nat.exists_eq_succ_of_ne_zero hw.ne'
    rw [hrun, Ne, List.rdropWhile_eq_nil_iff, List.take_succ_cons]
    simp
  have hprefix : longestRun w (true :: rest) <+: (true :: rest).take w := hrun ▸ List.rdropWhile_prefix ..
  have hlast : (longestRun w (true :: rest)).getLast hne = true := by
    simpa only [hrun, Bool.not_eq_true, Bool.not_eq_false'] using
      List.rdropWhile_last_not (!·) ((true :: rest).take w) (hrun ▸ hne)
  have hsplit := List.dropLast_append_getLast hne
  rw [hlast] at hsplit
  have hlen := hprefix.length_le.trans (List.length_take_le ..)
  obtain ⟨rest', hrest⟩ := hprefix.trans (List.take_prefix ..)
  rw [← hsplit] at hlen hrest
  exact ⟨_, rest', hsplit.symm, by simpa using hlen, hrest⟩

theorem runValue_concat_true (init : List Bool) : runValue (init ++ [true]) = 2 * runValue init + 1 := by
  rw [runValue_append, Nat.mul_comm]
  rfl

/-- The scan appends the bits it has read to the exponent. -/
theorem windowScan_pow {w : Nat} {table : List Nat} (hw : 0 < w)
    (htable : ∀ i < 2 ^ (w - 1), table.getD i 0 = g ^ (2 * i + 1) % m) (fuel : Nat) (hfuel : bits.length ≤ fuel) :
    windowScan m w table fuel bits (g ^ v % m) = g ^ (v * 2 ^ bits.length + runValue bits) % m := by
  induction fuel generalizing bits v with
  | zero =>
    obtain rfl := List.eq_nil_of_length_eq_zero (Nat.le_zero.1 hfuel)
    simp [windowScan, runValue]
  | succ fuel ih =>
    match bits with
    | [] => simp [windowScan, runValue]
    | false :: rest =>
      have hvalue : runValue (false :: rest) = runValue rest := rfl
      rw [windowScan, ← Nat.mul_mod, ← Nat.pow_add, ih (Nat.le_of_succ_le_succ hfuel), hvalue, List.length_cons]
      ring_nf
    | true :: rest =>
      obtain ⟨init, rest', hrun, hlen, hrest⟩ := longestRun_spec hw rest
      have hindex : runValue init < 2 ^ (w - 1) :=
        (runValue_lt init).trans_le (Nat.pow_le_pow_right (by omega) (by omega))
      have hentry : table.getD (runValue (init ++ [true]) / 2) 0 = g ^ runValue (init ++ [true]) % m := by
        rw [runValue_concat_true, show (2 * runValue init + 1) / 2 = runValue init by omega, htable _ hindex]
      rw [windowScan]
      simp only [hrun]
      rw [← hrest, List.drop_left, squareRun_pow, hentry, ← Nat.mul_mod, ← Nat.pow_add, ih ?_,
        runValue_append _ rest', List.length_append (bs := rest')]
      · ring_nf
      · have hlength := congrArg List.length hrest
        rw [List.length_append, List.length_append, List.length_singleton] at hlength
        omega

end

theorem windowWidth_pos (l : Nat) : 0 < (windowWidth l).toNat := by
  unfold windowWidth
  split_ifs <;> decide

/-- Settles O59: the scan of all bits of `e`, from the power 0 of `g`. -/
theorem slidingWindowIsThePower : Obligations.SlidingWindowIsThePower := by
  intro g e m _
  have hw : 0 < (windowWidth (bitlen e)).toNat := windowWidth_pos _
  generalize hwidth : (windowWidth (bitlen e)).toNat = w at hw
  have htable (i : Nat) (hi : i < 2 ^ (w - 1)) :
      (oddPowersFrom m (g % m) (2 ^ (w - 1)) (g % m)).getD i 0 = g ^ (2 * i + 1) % m := by
    have h := oddPowersFrom_getD (m := m) (g := g % m) _ hi 1
    rwa [Nat.pow_one, Nat.mod_mod, ← Nat.pow_mod, Nat.add_comm] at h
  calc slidingWindowPow g e m
    _ = windowScan m w (oddPowersFrom m (g % m) (2 ^ (w - 1)) (g % m)) (bitlen e) (bitsFromTop e) (g ^ 0 % m) := by
      rw [slidingWindowPow, hwidth, Nat.pow_zero]
    _ = g ^ (0 * 2 ^ (bitsFromTop e).length + runValue (bitsFromTop e)) % m :=
      windowScan_pow hw htable _ (by simp [bitsFromTop])
    _ = g ^ e % m := by rw [Nat.zero_mul, Nat.zero_add, runValue_bitsFromTop]

end Sys2Proof.Machine
end

section
/-! Trial division (O34, O35, O60). TP is what a sieve by the numbers below 32 leaves of 3 … 1021
(`trialPrimes_eq_filter`), which makes its members the odd primes up to 1021; each verdict of `classify` has one
equivalent condition, and the statements follow from those. -/

namespace Sys2Proof.Machine

/-! ### The trial-division primes (42_primality.md R150, R157) -/

/-- The number has no divisor from 2 to 31 but itself. -/
def noSmallDivisor (n : Nat) : Bool := (List.range' 2 30).all fun d => n % d != 0 || n == d

theorem noSmallDivisor_iff (n : Nat) : noSmallDivisor n = true ↔ ∀ d, 2 ≤ d → d < 32 → d ∣ n → n = d := by
  simp only [noSmallDivisor, List.all_eq_true, List.mem_range'_1, Bool.or_eq_true, bne_iff_ne, beq_iff_eq,
    Nat.dvd_iff_mod_eq_zero, ← imp_iff_not_or, and_imp]

/-- Below 32² the sieve leaves the primes: a composite number has a divisor up to its square root. -/
theorem noSmallDivisor_iff_prime {n : Nat} (h2 : 2 ≤ n) (hlt : n < 32 ^ 2) : noSmallDivisor n = true ↔ n.Prime := by
  rw [noSmallDivisor_iff]
  constructor
  · intro hsieve
    by_contra hcomposite
    have hsq : n.minFac ^ 2 < 32 ^ 2 := (Nat.minFac_sq_le_self (by omega) hcomposite).trans_lt hlt
    have hprime : n.minFac.Prime := Nat.minFac_prime (by omega)
    have hself := hsieve n.minFac hprime.two_le (lt_of_pow_lt_pow_left₀ 2 (by omega) hsq) n.minFac_dvd
    exact hcomposite (hself ▸ hprime)
  · intro hprime d hd _ hdvd
    obtain h1 | hself := (Nat.dvd_prime hprime).1 hdvd
    · omega
    · exact hself.symm

theorem trialPrimes_eq_filter : trialPrimes = (List.range' 3 1019).filter noSmallDivisor := by decide +kernel

theorem mem_trialPrimes_iff (p : Nat) : p ∈ trialPrimes ↔ p.Prime ∧ 3 ≤ p ∧ p ≤ 1021 := by
  rw [trialPrimes_eq_filter, List.mem_filter, List.mem_range'_1]
  constructor
  · rintro ⟨⟨hlo, hhi⟩, hsieve⟩
    exact ⟨(noSmallDivisor_iff_prime (by omega) (by omega)).1 hsieve, hlo, by omega⟩
  · rintro ⟨hprime, hlo, hhi⟩
    exact ⟨⟨hlo, by omega⟩, (noSmallDivisor_iff_prime (by omega) (by omega)).2 hprime⟩

theorem odd_of_mem_trialPrimes {p : Nat} (h : p ∈ trialPrimes) : p % 2 = 1 := by
  obtain ⟨hprime, hlo, -⟩ := (mem_trialPrimes_iff p).1 h
  exact hprime.mod_two_eq_one_iff_ne_two.2 (by omega)

/-! ### What the verdicts say (42_primality.md R150) -/

/-- R150's tests, grouped by the verdict they end in. -/
theorem classify_eq (n : Nat) :
    classify n = if n = 2 ∨ n ∈ trialPrimes then .prime
      else if 1 < n ∧ n % 2 = 1 ∧ ∀ p ∈ trialPrimes, ¬p ∣ n then .undecided else .composite := by
  simp only [classify, List.contains_iff_mem, List.any_eq_true, beq_iff_eq, ← Nat.dvd_iff_mod_eq_zero]
  by_cases hmem : n ∈ trialPrimes
  · have hodd := odd_of_mem_trialPrimes hmem
    have hlo := ((mem_trialPrimes_iff n).1 hmem).2.1
    simp (disch := omega) only [hmem, or_true, if_true, if_neg]
  · simp only [hmem, or_false, if_false]
    split_ifs <;> grind

theorem classify_eq_prime_iff (n : Nat) : classify n = .prime ↔ n = 2 ∨ n ∈ trialPrimes := by
  rw [classify_eq]
  split_ifs <;> simp_all

theorem classify_eq_undecided_iff (n : Nat) :
    classify n = .undecided ↔ 1 < n ∧ n % 2 = 1 ∧ ∀ p ∈ trialPrimes, ¬p ∣ n := by
  rw [classify_eq]
  split_ifs with hprime hrest
  · refine iff_of_false (by simp) fun ⟨_, hodd, hnone⟩ => ?_
    obtain rfl | hmem := hprime
    · omega
    · exact hnone n hmem dvd_rfl
  · exact iff_of_true rfl hrest
  · exact iff_of_false (by simp) hrest

/-- A candidate that is not composite is one of the other two. -/
theorem classify_ne_composite_iff (n : Nat) :
    classify n ≠ .composite ↔ classify n = .prime ∨ classify n = .undecided := by
  cases classify n <;> simp

theorem prime_of_classify_eq_prime {n : Nat} (h : classify n = .prime) : n.Prime := by
  obtain rfl | hmem := (classify_eq_prime_iff n).1 h
  · exact Nat.prime_two
  · exact ((mem_trialPrimes_iff n).1 hmem).1

/-- A prime is 2, or in TP, or above every prime of TP. -/
theorem classify_ne_composite_of_prime {n : Nat} (hn : n.Prime) : classify n ≠ .composite := by
  rw [classify_ne_composite_iff, classify_eq_prime_iff, classify_eq_undecided_iff]
  by_contra! hnot
  obtain ⟨⟨hne, hmem⟩, hfactor⟩ := hnot
  obtain ⟨p, hp, hdvd⟩ := hfactor hn.one_lt (hn.mod_two_eq_one_iff_ne_two.2 hne)
  have hprime := ((mem_trialPrimes_iff p).1 hp).1
  obtain rfl := (Nat.prime_dvd_prime_iff_eq hprime hn).1 hdvd
  exact hmem hp

theorem not_prime_dvd_of_classify_eq_undecided {n p : Nat} (h : classify n = .undecided) (hp : p.Prime)
    (hle : p ≤ 1021) : ¬p ∣ n := by
  obtain ⟨-, hodd, hnone⟩ := (classify_eq_undecided_iff n).1 h
  obtain rfl | hp2 := eq_or_ne p 2
  · omega
  · have := hp.two_le
    exact hnone p ((mem_trialPrimes_iff p).2 ⟨hp, by omega, hle⟩)

/-- Every number from 2 to 1030 has a prime factor up to 1021. -/
theorem le_of_classify_eq_undecided {n : Nat} (h : classify n = .undecided) : 1031 ≤ n := by
  obtain ⟨hgt, hodd, -⟩ := (classify_eq_undecided_iff n).1 h
  have hfactor (p : Nat) (hp : p.Prime) (hle : p ≤ 1021) : ¬p ∣ n := not_prime_dvd_of_classify_eq_undecided h hp hle
  by_contra hlt
  obtain hle | hgt := le_or_gt n 1021
  · exact hfactor n.minFac (Nat.minFac_prime (by omega)) ((Nat.minFac_le (by omega)).trans hle) n.minFac_dvd
  · have h3 := hfactor 3 (by norm_num) (by norm_num)
    have h5 := hfactor 5 (by norm_num) (by norm_num)
    have h13 := hfactor 13 (by norm_num) (by norm_num)
    interval_cases n <;> omega

/-- Settles O34: TP by the sieve, and each verdict from its equivalent condition. -/
theorem classifyIsRight : Obligations.ClassifyIsRight :=
  ⟨mem_trialPrimes_iff, rfl, fun n => ⟨prime_of_classify_eq_prime, fun h hn => classify_ne_composite_of_prime hn h,
    fun h => ⟨((classify_eq_undecided_iff n).1 h).2.1, le_of_classify_eq_undecided h,
      fun _ => not_prime_dvd_of_classify_eq_undecided h⟩⟩⟩

/-! ### TRIALDIV (42_primality.md R151) -/

/-- Completion of a command that has written RESULT, and nothing else of STATUS or ERRCODE, before. -/
theorem Completed.of_setResult {s s' : State} (b : Bool) (cnt : Nat) (hstatus : s'.status = s.status := by rfl)
    (hcode : s'.errcode = s.errcode := by rfl) : Completed s ((s'.setResult b).complete cnt) cnt where
  busy := rfl
  done := rfl
  err := by rw [← hstatus]; rfl
  ovr := by rw [← hstatus]; rfl
  errcode := hcode
  rngcnt := saturate32_toNat cnt
  pending := rfl

/-- Settles O35: the check of R151, and the condition for each verdict that sets RESULT. -/
theorem trialdivTestsSmallFactors : Obligations.TrialdivTestsSmallFactors := by
  refine ⟨encodedAs_of_row (name := "TRIALDIV") (by decide) rfl fun w hopc => by simp [selectOpcode, hopc],
    fun s a n ha => ?_⟩
  have hexec : exec (.trialdiv a) s = if n < 0 then fail s .operandRange
      else finish ({ s with mrrounds := 0 }.setResult (decide (classify n.toNat ≠ Verdict.composite))) 0 :=
    withSource_some _ ha
  refine ⟨fun hn => by rw [hexec, if_pos hn, fail], fun hn => ?_⟩
  rw [hexec, if_neg (by omega)]
  refine ⟨_, rfl, ?_, rfl, .of_setResult _ 0, rfl, rfl⟩
  obtain ⟨n, rfl⟩ := Int.eq_ofNat_of_zero_le hn
  calc decide (classify n ≠ Verdict.composite) = true
    _ ↔ n = 2 ∨ n ∈ trialPrimes ∨ (1 < n ∧ n % 2 = 1 ∧ ∀ p ∈ trialPrimes, ¬p ∣ n) := by
      rw [decide_eq_true_iff, classify_ne_composite_iff, classify_eq_prime_iff, classify_eq_undecided_iff, or_assoc]
    _ ↔ _ := by norm_cast

/-! ### Batches (42_primality.md R157) -/

/-- The remainder modulo the batch's product keeps the divisors the batch tests for. -/
theorem batchFindsFactor_iff (n : Nat) (batch : List Nat) :
    batchFindsFactor n batch = true ↔ ∃ p ∈ batch, p ∣ n := by
  simp only [batchFindsFactor, List.any_eq_true, beq_iff_eq]
  refine exists_congr fun p => and_congr_right fun hp => ?_
  rw [Nat.mod_mod_of_dvd n (List.dvd_prod hp), Nat.dvd_iff_mod_eq_zero]

/-- Settles O60: TP is the batches one after another. -/
theorem batchesFindTheSameFactors : Obligations.BatchesFindTheSameFactors := by
  refine ⟨fun n => ?_, by decide⟩
  simp only [batchesFindFactor, List.any_eq_true, batchFindsFactor_iff, trialPrimes, List.mem_flatten]
  exact ⟨fun ⟨b, hb, p, hp, hdvd⟩ => ⟨p, ⟨b, hb, hp⟩, hdvd⟩, fun ⟨p, ⟨b, hb, hp⟩, hdvd⟩ => ⟨b, hb, p, hp, hdvd⟩⟩

end Sys2Proof.Machine
end

section
/-! The Miller-Rabin round (O36, O37). On an odd `n ≥ 3` the round says whether `n` is a strong probable prime to its
base: `splitTwos` finds the one way to write `n − 1` as a power of two times an odd number, and stopping at 1 loses
nothing, for every later square is 1 too. A prime passes since ±1 are its only roots of 1. -/

namespace Sys2Proof.Machine

/-! ### The round is the strong-probable-prime test (42_primality.md R152) -/

/-- There is one way to write a number as a power of two times an odd number, and `splitTwos` finds it. -/
theorem splitTwos_eq {fuel s t : Nat} (hodd : t % 2 = 1) (h : 2 ^ s * t < 2 ^ fuel) :
    splitTwos fuel (2 ^ s * t) = (s, t) := by
  induction fuel generalizing s with
  | zero =>
    have : 0 < 2 ^ s * t := Nat.mul_pos (Nat.two_pow_pos s) (by omega)
    omega
  | succ fuel ih =>
    cases s with
    | zero => simp [splitTwos, hodd]
    | succ s =>
      have hdouble : 2 ^ (s + 1) * t = 2 * (2 ^ s * t) := by ring
      have hhalf := ih (s := s) (by omega)
      rw [hdouble, splitTwos, if_pos (by omega), Nat.mul_div_cancel_left _ (by omega), hhalf]

/-- Squaring `y` first, or squaring once more. -/
theorem sq_mod_pow_two_pow (n y r : Nat) : (y * y % n) ^ 2 ^ r % n = y ^ 2 ^ (r + 1) % n := by
  rw [← Nat.pow_mod, ← Nat.pow_two, ← Nat.pow_mul, Nat.pow_succ']

/-- R152's `repeat` looks for n − 1 among the squares; it may stop at 1, which it never leaves again. -/
theorem mrSquarings_iff {n : Nat} (hn : 3 ≤ n) (k y : Nat) :
    mrSquarings n k y = true ↔ ∃ r < k, y ^ 2 ^ (r + 1) % n = n - 1 := by
  induction k generalizing y with
  | zero => simp [mrSquarings]
  | succ k ih =>
    have hfirst : y ^ 2 ^ (0 + 1) % n = y * y % n := by rw [Nat.zero_add, Nat.pow_one, Nat.pow_two]
    simp only [mrSquarings, Nat.exists_lt_succ_left, hfirst, ← sq_mod_pow_two_pow n y (_ + 1)]
    split_ifs with hminus hone
    · simp [hminus]
    · have hne : 1 ≠ n - 1 := hone ▸ hminus
      have hnever : 1 % n ≠ n - 1 := by rwa [Nat.mod_eq_of_lt (by omega)]
      simp [hone, hne, hnever]
    · simp [hminus, ih]

/-- The round, with `n − 1` written as R152 has it. -/
theorem mrRound_iff {n s t : Nat} (hn : 3 ≤ n) (hsplit : n - 1 = 2 ^ s * t) (ht : t % 2 = 1) (hs : 0 < s) (a : Nat) :
    mrRound n a = true ↔ a ^ t % n = 1 ∨ ∃ r < s, a ^ (2 ^ r * t) % n = n - 1 := by
  have hst : splitTwos (bitlen (n - 1)) (n - 1) = (s, t) := by
    have := lt_two_pow_bitlen (n - 1)
    rw [hsplit] at this ⊢
    exact splitTwos_eq ht this
  have hpow (r : Nat) : (a ^ t % n) ^ 2 ^ r % n = a ^ (2 ^ r * t) % n := by
    rw [← Nat.pow_mod, ← Nat.pow_mul, Nat.mul_comm]
  obtain ⟨s, rfl⟩ := Nat.exists_eq_succ_of_ne_zero hs.ne'
  rw [Nat.succ_eq_add_one, Nat.exists_lt_succ_left, Nat.pow_zero, Nat.one_mul, ← or_assoc]
  simp only [mrRound, hst, powMod_eq, ← Nat.pow_mod, Nat.succ_eq_add_one, Nat.add_sub_cancel]
  split_ifs with hfirst
  · exact iff_of_true rfl (.inl hfirst)
  · simp only [mrSquarings_iff hn, hpow, hfirst, false_or]

theorem mrRound_iff_strongProbablePrime {n : Nat} (hn : 3 ≤ n) (hodd : n % 2 = 1) (a : Nat) :
    mrRound n a = true ↔ StrongProbablePrime n a := by
  have hs {s t : Nat} (hsplit : n - 1 = 2 ^ s * t) (ht : t % 2 = 1) : 0 < s := by
    by_contra
    obtain rfl : s = 0 := by omega
    omega
  constructor
  · intro hround
    obtain ⟨s, t, ht, hsplit⟩ := Nat.exists_eq_two_pow_mul_odd (n := n - 1) (by omega)
    have ht := Nat.odd_iff.1 ht
    exact ⟨s, t, hsplit, ht, (mrRound_iff hn hsplit ht (hs hsplit ht) a).1 hround⟩
  · rintro ⟨s, t, hsplit, ht, hstrong⟩
    exact (mrRound_iff hn hsplit ht (hs hsplit ht) a).2 hstrong

/-! ### A prime is a strong probable prime (42_primality.md R152) -/

/-- With ±1 the only square roots of 1, a root of 1 of an order `2^s` is 1 or squares to -1 on the way. -/
theorem eq_one_or_pow_two_pow_eq_neg_one {R : Type*} [Ring R] [NoZeroDivisors R] {x : R} {s : Nat}
    (h : x ^ 2 ^ s = 1) : x = 1 ∨ ∃ r < s, x ^ 2 ^ r = -1 := by
  induction s with
  | zero => exact .inl (by simpa using h)
  | succ s ih =>
    rw [Nat.pow_succ, pow_mul, sq_eq_one_iff] at h
    obtain hone | hminus := h
    · exact (ih hone).imp id fun ⟨r, hr, hminus⟩ => ⟨r, by omega, hminus⟩
    · exact .inr ⟨s, by omega, hminus⟩

/-- Residues 1 and n − 1 are 1 and -1 in the integers modulo `n`. -/
theorem mod_eq_one_iff_cast {n : Nat} (hn : 2 ≤ n) (x : Nat) : x % n = 1 ↔ (x : ZMod n) = 1 := by
  have h := ZMod.natCast_eq_natCast_iff' x 1 n
  rw [Nat.mod_eq_of_lt (by omega : 1 < n), Nat.cast_one] at h
  exact h.symm

theorem mod_eq_sub_one_iff_cast {n : Nat} (hn : 2 ≤ n) (x : Nat) : x % n = n - 1 ↔ (x : ZMod n) = -1 := by
  have h := ZMod.natCast_eq_natCast_iff' x (n - 1) n
  rw [Nat.mod_eq_of_lt (by omega : n - 1 < n), Nat.cast_sub (by omega), ZMod.natCast_self, Nat.cast_one, zero_sub] at h
  exact h.symm

theorem strongProbablePrime_of_prime {n a : Nat} (hn : n.Prime) (ha : ¬n ∣ a) : StrongProbablePrime n a := by
  have := Fact.mk hn
  have h2 := hn.two_le
  have ha0 : (a : ZMod n) ≠ 0 := mt (ZMod.natCast_eq_zero_iff a n).1 ha
  obtain ⟨s, t, ht, hsplit⟩ := Nat.exists_eq_two_pow_mul_odd (n := n - 1) (by omega)
  have hfermat : ((a : ZMod n) ^ t) ^ 2 ^ s = 1 := by
    rw [← pow_mul, Nat.mul_comm, ← hsplit, ZMod.pow_card_sub_one_eq_one ha0]
  refine ⟨s, t, hsplit, Nat.odd_iff.1 ht, ?_⟩
  refine (eq_one_or_pow_two_pow_eq_neg_one hfermat).imp (fun hone => ?_) fun ⟨r, hr, hminus⟩ => ⟨r, hr, ?_⟩
  · rw [mod_eq_one_iff_cast h2, Nat.cast_pow, hone]
  · rw [mod_eq_sub_one_iff_cast h2, Nat.cast_pow, Nat.mul_comm, pow_mul, hminus]

/-- Settles O36: a prime is a strong probable prime. -/
theorem primesPassEveryRound : Obligations.PrimesPassEveryRound := by
  intro n a hn hodd ha
  have h3 : 3 ≤ n := by have := hn.two_le; omega
  exact (mrRound_iff_strongProbablePrime h3 hodd a).2 (strongProbablePrime_of_prime hn ha)

/-! ### MRROUND (42_primality.md R153) -/

/-- Settles O37: the check of R153, and the round as the strong-probable-prime test. -/
theorem mrroundReportsOneRound : Obligations.MrroundReportsOneRound := by
  refine ⟨encodedAs_of_row (name := "MRROUND") (by decide) rfl fun w hopc => by simp [selectOpcode, hopc],
    fun s a b n base ha hb => ?_⟩
  have hexec : exec (.mrround a b) s = if n < 3 ∨ n % 2 = 0 then fail s .operandRange
      else finish ({ s with mrrounds := 1 }.setResult (mrRound n.toNat (base % n).toNat)) 0 :=
    (withSource_some _ ha).trans (withSource_some _ hb)
  refine ⟨fun hn => by rw [hexec, if_pos hn, fail], fun hn hodd => ?_⟩
  rw [hexec, if_neg (by omega)]
  exact ⟨_, rfl, mrRound_iff_strongProbablePrime (by omega) (by omega) _, rfl, .of_setResult _ 0, rfl, rfl⟩

end Sys2Proof.Machine
end

section
/-! MRTEST (O38, O39, O40, O41, O42). A larger number of draws only adds outcomes, so `pickBase` and `mrLoop` have
exactly the outcomes of R155's and R156's loops when the number of draws is left open (`picksBase_iff`,
`runsRounds_iff`). What those loops give for a prime follows from O36. -/

namespace Sys2Proof.Machine

variable {stream : Nat → Word} {n p q left done pos a pos' : Nat} {e : RoundsEnd}

/-! ### Round counts (42_primality.md R154) -/

/-- Settles O38: the bounds of a row decide every comparison that the count makes on it. -/
theorem roundCountsFollowTheTable : Obligations.RoundCountsFollowTheTable := by
  refine fun c l => ⟨rfl, fun i100 hrow => ?_⟩
  have hi100 : roundsFor100 l = i100 := by
    unfold roundsFor100
    split_ifs <;> omega
  rw [← hi100]
  exact ⟨fun hc => if_pos hc, fun hc => if_neg (Nat.not_lt.2 hc)⟩

/-! ### Picking a base (42_primality.md R155) -/

/-- The draw at `pos` gives a base in [2, n − 2]. -/
abbrev DrawsBase (stream : Nat → Word) (n pos : Nat) : Prop :=
  2 ≤ drawBits stream pos (bitlen n) ∧ drawBits stream pos (bitlen n) ≤ n - 2

theorem pickBase_succ_of_draws (h : DrawsBase stream n pos) :
    pickBase stream n (p + 1) pos = some (drawBits stream pos (bitlen n), pos + wordsOf (bitlen n)) :=
  if_pos h

theorem pickBase_succ_of_not_draws (h : ¬DrawsBase stream n pos) :
    pickBase stream n (p + 1) pos = pickBase stream n p (pos + wordsOf (bitlen n)) :=
  if_neg h

theorem pickBase_mono (hpq : p ≤ q) (h : pickBase stream n p pos = some (a, pos')) :
    pickBase stream n q pos = some (a, pos') := by
  induction p generalizing q pos with
  | zero => exact absurd h (by simp [pickBase])
  | succ p ih =>
    obtain ⟨q, rfl⟩ := Nat.exists_eq_succ_of_ne_zero (by omega : q ≠ 0)
    by_cases hdraw : DrawsBase stream n pos
    · rwa [pickBase_succ_of_draws hdraw] at h ⊢
    · rw [pickBase_succ_of_not_draws hdraw] at h ⊢
      exact ih (by omega) h

theorem picksBase_of_pickBase (h : pickBase stream n p pos = some (a, pos')) : PicksBase stream n pos a pos' := by
  induction p generalizing pos with
  | zero => exact absurd h (by simp [pickBase])
  | succ p ih =>
    by_cases hdraw : DrawsBase stream n pos
    · rw [pickBase_succ_of_draws hdraw] at h
      cases h
      exact .accept pos hdraw
    · rw [pickBase_succ_of_not_draws hdraw] at h
      exact .reject pos a pos' hdraw (ih h)

/-- R155's loop ends so exactly when some number of draws is enough for it. -/
theorem picksBase_iff : PicksBase stream n pos a pos' ↔ ∃ p, pickBase stream n p pos = some (a, pos') := by
  refine ⟨fun h => ?_, fun ⟨p, h⟩ => picksBase_of_pickBase h⟩
  induction h with
  | accept pos h => exact ⟨1, pickBase_succ_of_draws h⟩
  | reject pos a pos' h _ ih =>
    obtain ⟨p, hp⟩ := ih
    exact ⟨p + 1, (pickBase_succ_of_not_draws h).trans hp⟩

theorem PicksBase.bounds (h : PicksBase stream n pos a pos') : 2 ≤ a ∧ a ≤ n - 2 := by
  induction h with
  | accept pos h => exact h
  | reject pos a pos' _ _ ih => exact ih

theorem pickBase_eq_none (h : ∀ j < p, ¬DrawsBase stream n (pos + j * wordsOf (bitlen n))) :
    pickBase stream n p pos = none := by
  induction p generalizing pos with
  | zero => rfl
  | succ p ih =>
    have hfirst : ¬DrawsBase stream n pos := by simpa using h 0 (by omega)
    rw [pickBase_succ_of_not_draws hfirst]
    refine ih fun j hj => ?_
    rw [show pos + wordsOf (bitlen n) + j * wordsOf (bitlen n) = pos + (j + 1) * wordsOf (bitlen n) by ring]
    exact h (j + 1) (by omega)

/-! ### The rounds (42_primality.md R156) -/

theorem mrLoop_of_pickBase_none (h : pickBase stream n p pos = none) :
    mrLoop stream n p (left + 1) done pos = none := by
  simp [mrLoop, h]

theorem mrLoop_of_pickBase (h : pickBase stream n p pos = some (a, pos')) :
    mrLoop stream n p (left + 1) done pos =
      if mrRound n a then mrLoop stream n p left (done + 1) pos' else some ⟨false, done + 1, pos'⟩ := by
  simp [mrLoop, h]

/-- What a loop with a round to do and an outcome has done: picked a base, and failed on it or gone on. -/
theorem mrLoop_succ_eq_some (h : mrLoop stream n p (left + 1) done pos = some e) :
    ∃ a pos', pickBase stream n p pos = some (a, pos') ∧
      ((mrRound n a = false ∧ e = ⟨false, done + 1, pos'⟩) ∨
        (mrRound n a = true ∧ mrLoop stream n p left (done + 1) pos' = some e)) := by
  cases hpick : pickBase stream n p pos with
  | none => rw [mrLoop_of_pickBase_none hpick] at h; cases h
  | some base =>
    obtain ⟨a, pos'⟩ := base
    rw [mrLoop_of_pickBase hpick] at h
    refine ⟨a, pos', rfl, ?_⟩
    cases hround : mrRound n a with
    | false => rw [hround] at h; cases h; exact .inl ⟨rfl, rfl⟩
    | true => rw [hround] at h; exact .inr ⟨rfl, h⟩

theorem mrLoop_mono (hpq : p ≤ q) (h : mrLoop stream n p left done pos = some e) :
    mrLoop stream n q left done pos = some e := by
  induction left generalizing done pos with
  | zero => exact h
  | succ left ih =>
    obtain ⟨a, pos', hpick, ⟨hround, rfl⟩ | ⟨hround, hnext⟩⟩ := mrLoop_succ_eq_some h
    · rw [mrLoop_of_pickBase (pickBase_mono hpq hpick), hround]; rfl
    · rw [mrLoop_of_pickBase (pickBase_mono hpq hpick), hround]; exact ih hnext

/-- Settles O42: more draws pick the same bases (`pickBase_mono`), so each round goes on as before. -/
theorem patienceNeverChangesAnOutcome : Obligations.PatienceNeverChangesAnOutcome :=
  fun _ _ _ _ _ _ _ _ => mrLoop_mono

theorem runsRounds_of_mrLoop (h : mrLoop stream n p left done pos = some e) :
    RunsRounds stream n left done pos e := by
  induction left generalizing done pos with
  | zero => cases h; exact .finished done pos
  | succ left ih =>
    obtain ⟨a, pos', hpick, ⟨hround, rfl⟩ | ⟨hround, hnext⟩⟩ := mrLoop_succ_eq_some h
    · exact .failed _ _ _ a _ (picksBase_of_pickBase hpick) hround
    · exact .passed _ _ _ a _ _ (picksBase_of_pickBase hpick) hround (ih hnext)

/-- R156's loop ends so exactly when some number of draws per round is enough for it. -/
theorem runsRounds_iff : RunsRounds stream n left done pos e ↔ ∃ p, mrLoop stream n p left done pos = some e := by
  refine ⟨fun h => ?_, fun ⟨p, h⟩ => runsRounds_of_mrLoop h⟩
  induction h with
  | finished done pos => exact ⟨0, rfl⟩
  | failed left done pos a pos' base hround =>
    obtain ⟨p, hp⟩ := picksBase_iff.1 base
    exact ⟨p, by rw [mrLoop_of_pickBase hp, hround]; rfl⟩
  | passed left done pos a pos' e base hround _ ih =>
    obtain ⟨p, hp⟩ := picksBase_iff.1 base
    obtain ⟨q, hq⟩ := ih
    refine ⟨max p q, ?_⟩
    rw [mrLoop_of_pickBase (pickBase_mono (Nat.le_max_left p q) hp), hround]
    exact mrLoop_mono (Nat.le_max_right p q) hq

/-- The loop passes when every base it can pick does. -/
theorem RunsRounds.passed_of_forall (h : RunsRounds stream n left done pos e)
    (hall : ∀ a, 2 ≤ a → a ≤ n - 2 → mrRound n a = true) : e.passed = true := by
  induction h with
  | finished => rfl
  | failed left done pos a pos' base hround =>
    have hpass := hall a base.bounds.1 base.bounds.2
    rw [hround] at hpass
    cases hpass
  | passed _ _ _ _ _ _ _ _ _ ih => exact ih

theorem RunsRounds.passed_of_prime (hn : n.Prime) (hodd : n % 2 = 1) (h : RunsRounds stream n left done pos e) :
    e.passed = true :=
  h.passed_of_forall fun a hlo hhi => primesPassEveryRound n a hn hodd (Nat.not_dvd_of_pos_of_lt (by omega) (by omega))

/-! ### The command (42_primality.md R156) -/

/-- MRTEST's completion with the rounds' outcome `e`. -/
structure RoundsReported (s t : State) (e : RoundsEnd) : Prop where
  mrrounds : t.mrrounds = BitVec.ofNat 32 e.rounds
  result : t.status.result = (e.passed || s.status.result)
  completed : Completed s t e.taken
  stream : ∀ k, t.streamWord k = s.streamWord (e.taken + k)

section
variable {s : State} {r : RegField} {random : Bool}

theorem mrtestRounds_of_none
    (h : mrLoop s.streamWord n s.patience (mrRounds s.cert.toNat (bitlen n) random) 0 0 = none) :
    mrtestRounds n random s = .next { s with patience := s.patience + 1 } := by
  simp [mrtestRounds, h, stillRunning]

/-- A turn with the patience `p` in which the rounds end. -/
theorem mrtestRounds_of_some (h : mrLoop s.streamWord n p (mrRounds s.cert.toNat (bitlen n) random) 0 0 = some e) :
    ∃ t, mrtestRounds n random { s with patience := p } = .next t ∧ RoundsReported s t e := by
  have hstream : { s with patience := p }.streamWord = s.streamWord := rfl
  simp only [mrtestRounds, hstream, h]
  refine ⟨_, rfl, ?_⟩
  obtain ⟨passed, rounds, taken⟩ := e
  cases passed with
  | false => exact ⟨rfl, rfl, .of_complete taken, fun k => State.streamWord_takeWords taken k⟩
  | true => exact ⟨rfl, rfl, .of_setResult true taken, fun k => State.streamWord_takeWords taken k⟩

/-- What an engine turn does in the undecided case: the loops have an outcome and the command completes with it, or
only the patience grows. -/
theorem mrtestRounds_cases (s : State) (n : Nat) (random : Bool) :
    mrtestRounds n random s = .next { s with patience := s.patience + 1 } ∨
      ∃ e t, RunsRounds s.streamWord n (mrRounds s.cert.toNat (bitlen n) random) 0 0 e ∧
        mrtestRounds n random s = .next t ∧ RoundsReported s t e := by
  cases hloop : mrLoop s.streamWord n s.patience (mrRounds s.cert.toNat (bitlen n) random) 0 0 with
  | none => exact .inl (mrtestRounds_of_none hloop)
  | some e =>
    obtain ⟨t, ht, hreport⟩ := mrtestRounds_of_some hloop
    exact .inr ⟨e, t, runsRounds_of_mrLoop hloop, ht, hreport⟩

/-- MRTEST on a candidate `n` with the given verdict of trial division. -/
def mrtestOnVerdict (n : Nat) (random : Bool) (s : State) : Verdict → Result
  | .composite => finish { s with mrrounds := 0 } 0
  | .prime => finish ({ s with mrrounds := 0 }.setResult true) 0
  | .undecided => mrtestRounds n random s

theorem exec_mrtest_of_neg {n : Int} (hr : s.val? r = some n) (hn : n < 0) :
    exec (.mrtest r random) s = fail s .operandRange :=
  (withSource_some _ hr).trans (if_pos hn)

theorem exec_mrtest_of_nonneg {n : Int} (hr : s.val? r = some n) (hn : 0 ≤ n) :
    exec (.mrtest r random) s = mrtestOnVerdict n.toNat random s (classify n.toNat) := by
  refine (withSource_some _ hr).trans ((if_neg (Int.not_lt.2 hn)).trans ?_)
  cases classify n.toNat <;> rfl

end

/-- Settles O39: trial division's verdict decides (`mrtestOnVerdict`); an undecided candidate's turn is
`mrtestRounds_cases`, and an outcome of the loops is there for every patience from some one on. -/
theorem mrtestFollowsTheLoops : Obligations.MrtestFollowsTheLoops := by
  refine ⟨encodedAs_of_row (name := "MRTEST") (by decide) rfl fun w hopc => by simp [selectOpcode, hopc],
    fun s r random n hr => ⟨exec_mrtest_of_neg hr, fun hn hclass => ?_, fun hn hclass => ?_, fun hn hclass => ?_⟩⟩
  · rw [exec_mrtest_of_nonneg hr hn, hclass]
    exact ⟨_, rfl, rfl, rfl, .of_complete 0⟩
  · rw [exec_mrtest_of_nonneg hr hn, hclass]
    exact ⟨_, rfl, rfl, rfl, .of_setResult true 0⟩
  · have hexec (p : Nat) :
        exec (.mrtest r random) { s with patience := p } = mrtestRounds n.toNat random { s with patience := p } := by
      rw [exec_mrtest_of_nonneg (s := { s with patience := p }) hr hn, hclass]
      rfl
    refine ⟨?_, fun e hruns => ?_⟩
    · obtain hrunning | ⟨e, t, hruns, ht, hreport⟩ := mrtestRounds_cases s n.toNat random
      · exact .inl ((hexec s.patience).trans hrunning)
      · exact .inr ⟨e, t, hruns, (hexec s.patience).trans ht, hreport.mrrounds, hreport.result, hreport.completed,
          hreport.stream⟩
    · obtain ⟨p, hp⟩ := runsRounds_iff.1 hruns
      refine ⟨p, fun q hpq => ?_⟩
      obtain ⟨t, ht, hreport⟩ := mrtestRounds_of_some (mrLoop_mono hpq hp)
      exact ⟨t, (hexec q).trans ht, hreport.mrrounds, hreport.result, hreport.completed, hreport.stream⟩

/-- Settles O40: trial division does not call a prime composite, and an undecided prime passes every round (O36). -/
theorem mrtestNeverRejectsAPrime : Obligations.MrtestNeverRejectsAPrime := by
  intro s t r random n hr hn hbusy hexec hidle
  rw [exec_mrtest_of_nonneg hr (by omega), Int.toNat_natCast] at hexec
  obtain hclass | hclass := (classify_ne_composite_iff n).1 (classify_ne_composite_of_prime hn)
  · rw [hclass] at hexec
    cases hexec
    rfl
  · rw [hclass, mrtestOnVerdict] at hexec
    obtain hrunning | ⟨e, t', hruns, hreported, hreport⟩ := mrtestRounds_cases s n random
    · cases hexec.symm.trans hrunning
      exact absurd (hbusy.symm.trans hidle) (by decide)
    · cases hexec.symm.trans hreported
      have hodd : n % 2 = 1 := ((classify_eq_undecided_iff n).1 hclass).2.1
      rw [hreport.result, hruns.passed_of_prime hn hodd, Bool.true_or]

/-- Settles O41: without a base the first round has no end. -/
theorem mrtestWaitsForABase : Obligations.MrtestWaitsForABase := by
  intro s r random n hr hclass hrounds hdraws
  have hnone : pickBase s.streamWord n s.patience 0 = none := pickBase_eq_none (by simpa using hdraws)
  obtain ⟨left, hleft⟩ := Nat.exists_eq_succ_of_ne_zero hrounds.ne'
  rw [exec_mrtest_of_nonneg hr (by omega), Int.toNat_natCast, hclass]
  exact mrtestRounds_of_none (hleft ▸ mrLoop_of_pickBase_none hnone)

end Sys2Proof.Machine
end

section
/-! Random bits and RANDCAND (O43, O44, O45). A draw is the magnitude of the words it takes (`drawWords_eq_magnitude`).
A candidate is the drawn number with single bits set (`testBit_forceBits`): the top two bound it from below, the lowest
ones give its residue modulo 4. -/

namespace Sys2Proof.Machine

/-! ### Drawing bits (43_random.md R170) -/

theorem drawWords_eq_foldl (stream : Nat → Word) (pos n v : Nat) :
    drawWords stream pos n v =
      ((List.range n).map fun j => stream (pos + j)).foldl (fun acc w => acc * 2 ^ 32 + w.toNat) v := by
  induction n generalizing pos v with
  | zero => rfl
  | succ n ih =>
    rw [drawWords, ih, List.range_succ_eq_map, List.map_cons, List.foldl_cons, List.map_map]
    simp only [Function.comp_def, Nat.succ_eq_add_one, Nat.add_right_comm pos, Nat.add_assoc, Nat.add_zero]

/-- The words of a draw are put together like the words of a big register (10_state.md R21). -/
theorem drawWords_eq_magnitude (stream : Nat → Word) (pos n : Nat) :
    drawWords stream pos n 0 = magnitude ((List.range n).map fun j => stream (pos + j)) :=
  drawWords_eq_foldl stream pos n 0

/-- Settles O43: the words' magnitude as a sum (`magnitude_eq_sum`). -/
theorem drawBitsIsTheConcatenation : Obligations.DrawBitsIsTheConcatenation := by
  intro stream pos l
  rw [drawBits, drawWords_eq_magnitude, magnitude_eq_sum, List.length_map, List.length_range, wordsOf]
  refine congrArg (fun terms : List Nat => terms.sum % 2 ^ l) (List.map_congr_left fun j hj => ?_)
  have hword : ((List.range ((l + 31) / 32)).map fun j => stream (pos + j)).getD j 0 = stream (pos + j) := by
    simp [List.mem_range.1 hj]
  rw [hword]

/-! ### Forcing bits (43_random.md R171) -/

theorem testBit_forceBits (v l : Nat) (blum : Bool) (k : Nat) :
    (forceBits v l blum).testBit k =
      (v.testBit k || k == l - 1 || k == l - 2 || k == 0 || (blum && k == 1)) := by
  have hset (n : Nat) : (2 ^ n).testBit k = (k == n) := by
    rw [Nat.testBit_two_pow, Bool.beq_eq_decide_eq, decide_eq_decide]; exact eq_comm
  have h0 : Nat.testBit 1 k = (k == 0) := hset 0
  have h1 : Nat.testBit 2 k = (k == 1) := hset 1
  cases blum with
  | false =>
    simp only [forceBits, Bool.false_eq_true, if_false, Nat.testBit_or, hset, h0, Bool.false_and, Bool.or_false]
  | true => simp only [forceBits, if_true, Nat.testBit_or, hset, h0, h1, Bool.true_and]

/-- Settles O44: the check of R171, and the write of the drawn number with its bits forced. -/
theorem randcandForcesBits : Obligations.RandcandForcesBits := by
  refine ⟨encodedAs_of_row (name := "RANDCAND") (by decide) rfl fun w hopc => by simp [selectOpcode, hopc],
    fun s d blum => ⟨fun hbad => if_pos hbad, fun hlo hhi => ?_⟩⟩
  have hexec : exec (.randcand d blum) s =
      finish ((s.writeReg d (forceBits (drawBits s.streamWord 0 s.nbits.toNat) s.nbits.toNat blum)).takeWords
        (wordsOf s.nbits.toNat)) (wordsOf s.nbits.toNat) := if_neg (by omega)
  have hlt := forceBits_lt blum hlo (drawBits_lt s.streamWord 0 s.nbits.toNat)
  have hbits := testBit_forceBits (drawBits s.streamWord 0 s.nbits.toNat) s.nbits.toNat blum
  have hfits : 2 ^ s.nbits.toNat ≤ 2 ^ (32 * s.nw) := Nat.pow_le_pow_right (by omega) hhi
  generalize forceBits (drawBits s.streamWord 0 s.nbits.toNat) s.nbits.toNat blum = v at hexec hlt hbits
  exact ⟨_, v, hexec, State.val?_writeReg_same (hlt.trans_le hfits), by exact_mod_cast hlt, fun k _ => hbits k,
    State.signBit_writeReg_same (v := v), .of_complete _, rfl, fun k => State.streamWord_takeWords _ k⟩

/-! ### What the forced bits give (43_random.md R172) -/

/-- Two neighbouring bits that are set. -/
theorem div_two_pow_mod_four {x k : Nat} (hk : x.testBit k = true) (hk1 : x.testBit (k + 1) = true) :
    x / 2 ^ k % 4 = 3 := by
  rw [Nat.testBit_eq_decide_div_mod_eq, decide_eq_true_iff] at hk hk1
  rw [Nat.pow_succ, ← Nat.div_div_eq_div_mul] at hk1
  omega

theorem three_mul_two_pow_le_forceBits (v : Nat) {l : Nat} (blum : Bool) (hl : 2 ≤ l) :
    3 * 2 ^ (l - 2) ≤ forceBits v l blum := by
  have htop : forceBits v l blum / 2 ^ (l - 2) % 4 = 3 :=
    div_two_pow_mod_four (by simp [testBit_forceBits]) (by simp [testBit_forceBits, show l - 2 + 1 = l - 1 by omega])
  have hdiv : 3 ≤ forceBits v l blum / 2 ^ (l - 2) := htop ▸ Nat.mod_le _ 4
  exact (Nat.le_div_iff_mul_le (Nat.two_pow_pos _)).1 hdiv

theorem forceBits_mod_two (v l : Nat) (blum : Bool) : forceBits v l blum % 2 = 1 := by
  rw [Nat.mod_two_eq_one_iff_testBit_zero, testBit_forceBits]
  simp

theorem forceBits_blum_mod_four (v l : Nat) : forceBits v l true % 4 = 3 := by
  have hlow : forceBits v l true / 2 ^ 0 % 4 = 3 :=
    div_two_pow_mod_four (by rw [testBit_forceBits]; simp) (by rw [testBit_forceBits]; simp)
  rwa [Nat.pow_zero, Nat.div_one] at hlow

/-- A number with its top bit in place has its bit length. -/
theorem bitlen_eq {v l : Nat} (hlo : 2 ^ (l - 1) ≤ v) (hhi : v < 2 ^ l) : bitlen v = l := by
  have hle := bitlen_le hhi
  have hlt : l - 1 < bitlen v := (Nat.pow_lt_pow_iff_right (by omega)).1 (hlo.trans_lt (lt_two_pow_bitlen v))
  omega

/-- The top two bits of both factors are enough for the top bit of the product. -/
theorem two_pow_le_mul {p q a b : Nat} (ha : 2 ≤ a) (hb : 2 ≤ b) (hp : 3 * 2 ^ (a - 2) ≤ p)
    (hq : 3 * 2 ^ (b - 2) ≤ q) : 2 ^ (a + b - 1) ≤ p * q := by
  calc 2 ^ (a + b - 1)
    _ = 8 * (2 ^ (a - 2) * 2 ^ (b - 2)) := by
      rw [← Nat.pow_add, show a + b - 1 = 3 + (a - 2 + (b - 2)) by omega, Nat.pow_add]
    _ ≤ 9 * (2 ^ (a - 2) * 2 ^ (b - 2)) := Nat.mul_le_mul_right _ (by omega)
    _ = 3 * 2 ^ (a - 2) * (3 * 2 ^ (b - 2)) := by ring
    _ ≤ p * q := Nat.mul_le_mul hp hq

/-- Settles O45: the top two bits bound a candidate and a product from below, and both are below the power. -/
theorem candidatesMakeExactProducts : Obligations.CandidatesMakeExactProducts := by
  intro u v a b blumU blumV ha hb hu hv p q
  have hplo : 3 * 2 ^ (a - 2) ≤ p := three_mul_two_pow_le_forceBits u blumU (by omega)
  have hqlo : 3 * 2 ^ (b - 2) ≤ q := three_mul_two_pow_le_forceBits v blumV (by omega)
  have hphi : p < 2 ^ a := forceBits_lt blumU ha hu
  have hqhi : q < 2 ^ b := forceBits_lt blumV hb hv
  have htop : 2 ^ (a - 1) ≤ 3 * 2 ^ (a - 2) := by
    rw [show a - 1 = a - 2 + 1 by omega, Nat.pow_succ]; omega
  refine ⟨bitlen_eq (htop.trans hplo) hphi, hplo, forceBits_mod_two u a blumU, fun hblum => ?_,
    bitlen_eq (two_pow_le_mul (by omega) (by omega) hplo hqlo) ?_⟩
  · subst hblum; exact forceBits_blum_mod_four u a
  · rw [Nat.pow_add]; exact Nat.mul_lt_mul'' hphi hqhi

end Sys2Proof.Machine
end

section
/-! Workfactors, WFCHK and SQRLOOP (O46, O47, O48, O49, O50). R181's choice is the least candidate in one linear order,
by distance and then by size (`suggestionRank`), and the fold keeps the least (`suggestionRank_foldl_nearer_le`).
SQRLOOP iterates one squaring (`squareTimes_eq_iterate`), which makes a power (`squareTimes_eq_pow`), and ends as every
modular command does (`exec_sqrloop_of_checks`). -/

namespace Sys2Proof.Machine

variable {s : State} {d a c : RegField}

/-! ### The valid workfactors (44_squaring.md R180) -/

theorem isWorkfactor_iff_mem (w : Word) : isWorkfactor w = true ↔ w.toNat ∈ validWorkfactors :=
  List.contains_iff_mem

theorem validWorkfactors_bounds : ∀ n ∈ validWorkfactors, 2 ≤ n ∧ n ≤ 0xC0000000 := by decide

theorem mem_validWorkfactors_iff (n : Nat) :
    n ∈ validWorkfactors ↔ (∃ k, 1 ≤ k ∧ k ≤ 31 ∧ n = 2 ^ k) ∨ ∃ k, k ≤ 30 ∧ n = 3 * 2 ^ k := by
  simp only [validWorkfactors, List.mem_append, List.mem_map, List.mem_range]
  refine or_congr ⟨?_, ?_⟩ ⟨?_, ?_⟩
  · rintro ⟨k, hk, rfl⟩
    exact ⟨k + 1, by omega, by omega, rfl⟩
  · rintro ⟨k, hpos, hk, rfl⟩
    exact ⟨k - 1, by omega, by rw [Nat.sub_add_cancel hpos]⟩
  · rintro ⟨k, hk, rfl⟩
    exact ⟨k, by omega, rfl⟩
  · rintro ⟨k, hk, rfl⟩
    exact ⟨k, by omega, rfl⟩

/-- R180's two forms: the width of the word bounds the exponent. -/
theorem mem_validWorkfactors_iff_zeta {n : Nat} (hn : n < 2 ^ 32) :
    n ∈ validWorkfactors ↔ ∃ zeta delta, (zeta = 2 ∨ zeta = 3) ∧ n = zeta * 2 ^ delta := by
  rw [mem_validWorkfactors_iff]
  constructor
  · rintro (⟨k, hpos, -, rfl⟩ | ⟨k, -, rfl⟩)
    · exact ⟨2, k - 1, .inl rfl, by rw [← Nat.pow_succ', Nat.succ_eq_add_one, Nat.sub_add_cancel hpos]⟩
    · exact ⟨3, k, .inr rfl, rfl⟩
  · rintro ⟨zeta, delta, rfl | rfl, rfl⟩
    · have := (Nat.pow_lt_pow_iff_right (by decide)).1 (show 2 ^ delta < 2 ^ 31 by omega)
      exact .inl ⟨delta + 1, by omega, by omega, (Nat.pow_succ' ..).symm⟩
    · have := (Nat.pow_lt_pow_iff_right (by decide)).1 (show 2 ^ delta < 2 ^ 31 by omega)
      exact .inr ⟨delta, by omega, rfl⟩

/-- Settles O46: the list's members in both forms (`mem_validWorkfactors_iff`); its size, and that no value repeats, by
evaluation. -/
theorem validWorkfactorsAreZetaTimesPowers : Obligations.ValidWorkfactorsAreZetaTimesPowers := by
  refine ⟨fun w => ?_, fun n => ?_, rfl, by decide, validWorkfactors_bounds⟩
  · rw [isWorkfactor_iff_mem, mem_validWorkfactors_iff_zeta w.isLt]
  · rw [← mem_validWorkfactors_iff, iff_and_self]
    intro hn
    have := validWorkfactors_bounds n hn
    omega

/-! ### The suggested workfactor (44_squaring.md R181) -/

theorem distance_eq_natAbs (a b : Nat) : distance a b = ((a : Int) - b).natAbs := by
  unfold distance
  omega

/-- R181's order on the candidates for `w`: by distance, and among equally near ones by size. -/
def suggestionRank (w v : Nat) : ℕ ×ₗ ℕ := toLex (distance w v, v)

theorem suggestionRank_le_iff {w u v : Nat} : suggestionRank w u ≤ suggestionRank w v ↔
    distance w u < distance w v ∨ distance w u = distance w v ∧ u ≤ v :=
  Prod.Lex.toLex_le_toLex

/-- R181's choice between two candidates takes the one that comes first. -/
theorem suggestionRank_nearer_le (w best v : Nat) : suggestionRank w (nearer w best v) ≤ suggestionRank w best ∧
    suggestionRank w (nearer w best v) ≤ suggestionRank w v := by
  unfold nearer
  simp only [suggestionRank_le_iff]
  split <;> omega

theorem suggestionRank_foldl_nearer_le (w best : Nat) (vs : List Nat) :
    ∀ v ∈ best :: vs, suggestionRank w (vs.foldl (nearer w) best) ≤ suggestionRank w v := by
  induction vs generalizing best with
  | nil => simp
  | cons u us ih =>
    have hfirst := ih (nearer w best u) _ List.mem_cons_self
    obtain ⟨hbest, hu⟩ := suggestionRank_nearer_le w best u
    intro v hv
    obtain rfl | rfl | hv := by simpa only [List.mem_cons] using hv
    · exact hfirst.trans hbest
    · exact hfirst.trans hu
    · exact ih _ v (List.mem_cons_of_mem _ hv)

/-- The chosen candidate fits a word. -/
theorem toNat_nearestWorkfactor (w : Word) :
    (nearestWorkfactor w).toNat = validWorkfactors.foldl (nearer w.toNat) 2 := by
  rw [nearestWorkfactor, BitVec.toNat_ofNat]
  refine Nat.mod_eq_of_lt (List.foldlRecOn _ _ (motive := (· < 2 ^ 32)) (by decide) fun best hbest v hv => ?_)
  have := validWorkfactors_bounds v hv
  unfold nearer
  split
  · omega
  · exact hbest

/-- Settles O47: the suggestion comes first in R181's order. -/
theorem nearestWorkfactorIsNearest : Obligations.NearestWorkfactorIsNearest := by
  refine fun w => ⟨isWorkfactor_nearestWorkfactor w, fun v hv => ?_⟩
  have hle := suggestionRank_foldl_nearer_le w.toNat 2 validWorkfactors v.toNat
    (List.mem_cons_of_mem _ ((isWorkfactor_iff_mem v).1 hv))
  rw [← toNat_nearestWorkfactor, suggestionRank_le_iff, distance_eq_natAbs, distance_eq_natAbs] at hle
  omega

/-! ### WFCHK (44_squaring.md R182) -/

/-- Settles O48: WFSUG and RESULT are written, and the command completes. -/
theorem wfchkReportsValidityAndSuggestion : Obligations.WfchkReportsValidityAndSuggestion :=
  ⟨encodedAs_of_row (name := "WFCHK") (by decide) rfl fun w hopc => by simp [selectOpcode, hopc],
    fun s => ⟨_, rfl, rfl, rfl, .of_setResult (isWorkfactor s.wf) 0, rfl, rfl, rfl⟩⟩

/-! ### SQRLOOP (44_squaring.md R183, R184) -/

theorem squareTimes_eq_iterate (m : Int) (n : Nat) (y : Int) : squareTimes m n y = (fun y => y * y % m)^[n] y := by
  induction n generalizing y with
  | zero => rfl
  | succ n ih => exact ih (y * y % m)

/-- At least one squaring, so that the result is reduced. -/
theorem squareTimes_eq_pow (m : Int) (n : Nat) (y : Int) : squareTimes m (n + 1) y = y ^ 2 ^ (n + 1) % m := by
  induction n with
  | zero => rw [squareTimes_succ, squareTimes, zero_add, pow_one, pow_two]
  | succ n ih => rw [squareTimes_succ, ih, ← Int.mul_emod, ← pow_two, ← pow_mul, ← pow_succ]

/-- SQRLOOP on written sources: the checks of R183 and R184 in their order. -/
theorem exec_sqrloop {x m : Int} (strict : Bool) (ha : s.val? a = some x) (hc : s.val? c = some m) :
    exec (.sqrloop d a c strict) s =
      if m ≤ 0 then fail s .invalidModulus
      else if strict = true ∧ bitlen m.toNat < 1273 then fail s .modulusTooSmall
      else if strict = true ∧ isWorkfactor s.wf = false then
        fail { s with wfsug := nearestWorkfactor s.wf } .invalidWorkfactor
      else squareLoop d x m s := by
  have hexec : exec (.sqrloop d a c strict) s = _ := (withSource_some _ ha).trans (withSource_some _ hc)
  simp only [Bool.and_eq_true, decide_eq_true_iff, Bool.not_eq_true'] at hexec
  exact hexec

/-- SQRLOOP past its checks ends as a modular command with residue x^(2^(WF+1)) mod m. -/
theorem exec_sqrloop_of_checks {x m : Int} {strict : Bool} (ha : s.val? a = some x) (hc : s.val? c = some m)
    (hm : 0 < m) (hstrict : strict = true → 1273 ≤ bitlen m.toNat ∧ isWorkfactor s.wf = true) :
    ∃ t, exec (.sqrloop d a c strict) s = .next t ∧
      ModularEnd s t d (x ^ 2 ^ (s.wf.toNat + 1) % m) (m = 1) m 0 ∧ t.wfsug = s.wfsug := by
  obtain ⟨hnonneg, hlt⟩ := squareTimes_bounds hm s.wf.toNat x
  have hresidue : ((squareTimes m (squaringCount s) x).toNat : Int) = x ^ 2 ^ (s.wf.toNat + 1) % m :=
    (Int.toNat_of_nonneg hnonneg).trans (squareTimes_eq_pow m s.wf.toNat x)
  have hend := State.modularEnd (d := d) hc (hresidue.trans_lt (Int.emod_lt_of_pos _ hm)) (m == 1) 0
  rw [hresidue, beq_iff_eq] at hend
  have hlong : ¬(strict = true ∧ bitlen m.toNat < 1273) := fun ⟨hs, hlen⟩ => (hstrict hs).1.not_gt hlen
  have hvalid : ¬(strict = true ∧ isWorkfactor s.wf = false) := fun ⟨hs, hwf⟩ => by simp [hstrict hs] at hwf
  rw [exec_sqrloop strict ha hc, if_neg (by omega), if_neg hlong, if_neg hvalid]
  exact ⟨_, rfl, hend, by simp⟩

/-- Settles O49: the checks in their order (`exec_sqrloop`), and the end past them (`exec_sqrloop_of_checks`). -/
theorem sqrloopSquaresWfPlusOneTimes : Obligations.SqrloopSquaresWfPlusOneTimes := by
  refine ⟨encodedAs_of_row (name := "SQRLOOP") (by decide) rfl fun w hopc => by simp [selectOpcode, hopc],
    fun s d a c strict x m ha hc => ?_⟩
  have hexec := exec_sqrloop (d := d) strict ha hc
  refine ⟨fun hm => by rw [hexec, if_pos hm, fail], fun hm hs hlen => ?_, fun hm hs hlen hwf => ?_, fun hm hs => ?_⟩
  · rw [hexec, if_neg (by omega), if_pos ⟨hs, hlen⟩, fail]
  · rw [hexec, if_neg (by omega), if_neg (by omega), if_pos ⟨hs, hwf⟩, fail]
  · obtain ⟨t, hnext, hend, hsug⟩ := exec_sqrloop_of_checks (d := d) ha hc hm hs
    refine ⟨t, hnext, ?_, hend.value, hend.signBit, hend.path, hend.winsz, hsug, hend.completed, hend.result⟩
    rw [hend.value, ← squareTimes_eq_iterate, squareTimes_eq_pow]

/-- Settles O50: the first run leaves its power in `d` and the modulus in `c`, and the powers multiply. -/
theorem sqrloopRunsChain : Obligations.SqrloopRunsChain := by
  intro s t d a c x m w₂ ha hc hm hdc hnext
  obtain ⟨t', hnext', hend, -⟩ := exec_sqrloop_of_checks (d := d) (strict := false) ha hc hm (by simp)
  obtain rfl : t = t' := Host.Outcome.next.inj (hnext.symm.trans hnext')
  obtain ⟨-, hother, -⟩ := commandsWriteOnlyTheNamedDestination _ _ _ hnext
  obtain ⟨-, -, hmodulus⟩ := hother c fun h => hdc (Option.some.inj h)
  obtain ⟨u, hnextu, hendu, -⟩ := exec_sqrloop_of_checks (s := { t with wf := w₂ }) (d := d) (strict := false)
    hend.value (hmodulus.trans hc) hm (by simp)
  refine ⟨u, hnextu, hendu.value.trans (congrArg some ?_)⟩
  calc (x ^ 2 ^ (s.wf.toNat + 1) % m) ^ 2 ^ (w₂.toNat + 1) % m
    _ = (x ^ 2 ^ (s.wf.toNat + 1)) ^ 2 ^ (w₂.toNat + 1) % m := (Int.mod_modEq _ m).pow _
    _ = x ^ 2 ^ (s.wf.toNat + 1 + (w₂.toNat + 1)) % m := by rw [← pow_mul, ← pow_add]

end Sys2Proof.Machine
end

section
/-! Error completions (O10). No command writes before its last check, so an error is raised on the state as it was at
acceptance, WFSUG apart (44_squaring.md R184). `ErrsByRaising` says of an outcome that this is its only way to an
error; one walk through the commands shows it of them all. -/

namespace Sys2Proof.Machine

section
variable {s t u : State} {code : ErrCode}

/-! ### How a command ends in error (60_exceptions.md R203) -/

/-- `t` is `s` after an error. -/
inductive ErrorCompletion (s : State) : State → Prop where
  | raised (code : ErrCode) (hcode : code ≠ .noError) : ErrorCompletion s (s.raiseError code)
  /-- SQRLOOP's INVALID_WORKFACTOR comes with a suggestion (44_squaring.md R184). -/
  | workfactor (w : Word) : ErrorCompletion s ({ s with wfsug := w }.raiseError .invalidWorkfactor)

theorem ErrorCompletion.frame (h : ErrorCompletion s t) :
    t.errcode ≠ .noError ∧ (t.errcode ≠ .invalidWorkfactor → t.wfsug = s.wfsug) ∧
      t = { s with
            errcode := t.errcode
            wfsug := t.wfsug
            rngcnt := 0
            status := ⟨false, true, true, s.status.result, s.status.ovr⟩
            pending := none } := by
  cases h with
  | raised code hcode => exact ⟨hcode, fun _ => rfl, rfl⟩
  | workfactor w => exact ⟨by simp, fun hne => absurd rfl hne, rfl⟩

/-- Where the outcome is a next state, it has ERR as `s` has it or is `s` after an error. -/
def ErrsByRaising (s : State) (r : Result) : Prop :=
  ∀ t, r = .next t → t.status.err = s.status.err ∨ ErrorCompletion s t

theorem ErrsByRaising.next (h : t.status.err = s.status.err) : ErrsByRaising s (.next t) := by
  rintro _ ⟨⟩; exact .inl h

theorem ErrorCompletion.errsByRaising (h : ErrorCompletion s t) : ErrsByRaising s (.next t) := by
  rintro _ ⟨⟩; exact .inr h

theorem ErrsByRaising.fail (hcode : code ≠ .noError) : ErrsByRaising s (fail s code) :=
  (ErrorCompletion.raised code hcode).errsByRaising

theorem ErrsByRaising.finish (h : u.status.err = s.status.err) (cnt : Nat) : ErrsByRaising s (finish u cnt) :=
  .next h

/-- One check of a command. -/
theorem ErrsByRaising.check {p : Prop} [Decidable p] {r : Result} (hcode : code ≠ .noError) (h : ErrsByRaising s r) :
    ErrsByRaising s (if p then Machine.fail s code else r) := by
  split_ifs
  · exact .fail hcode
  · exact h

theorem ErrsByRaising.withSource {a : RegField} {k : Int → Result} (h : ∀ x, ErrsByRaising s (k x)) :
    ErrsByRaising s (withSource s a k) := by
  intro t ht
  obtain ⟨x, -, hx⟩ := withSource_eq_next ht
  exact h x t hx

/-! ### The commands -/

theorem execSqrloop_errsByRaising (d a c : RegField) (strict : Bool) (s : State) :
    ErrsByRaising s (execSqrloop d a c strict s) :=
  .withSource fun x => .withSource fun m => .check (by decide) <| .check (by decide) <| by
    split_ifs
    · exact (ErrorCompletion.workfactor (nearestWorkfactor s.wf)).errsByRaising
    · exact .finish (by simp) 0

theorem mrtestRounds_errsByRaising (n : Nat) (random : Bool) (s : State) :
    ErrsByRaising s (mrtestRounds n random s) := by
  unfold mrtestRounds
  split
  · exact .next rfl
  · refine .finish ?_ _
    split_ifs <;> rfl

theorem execMrtest_errsByRaising (a : RegField) (random : Bool) (s : State) :
    ErrsByRaising s (execMrtest a random s) :=
  .withSource fun n => .check (by decide) <| by
    split
    · exact .finish (by simp) 0
    · exact .finish (by simp) 0
    · exact mrtestRounds_errsByRaising n.toNat random s

/-- Each command makes its checks first, and a write after them leaves ERR alone. -/
theorem exec_errsByRaising (i : Instr) (s : State) : ErrsByRaising s (exec i s) := by
  cases i with
  | nop => exact .finish (by simp) 0
  | clr d => exact .finish (by simp) 0
  | modred d a c =>
    exact .withSource fun x => .withSource fun m => .check (by decide) <| .check (by decide) <| .finish (by simp) 0
  | mconst c => exact .withSource fun m => .check (by decide) <| .check (by decide) <| .finish (by simp) 0
  | modsqr d a c => exact .withSource fun x => .withSource fun m => .check (by decide) <| .finish (by simp) 0
  | sqrloop d a c strict => exact execSqrloop_errsByRaising d a c strict s
  | modpow d a b c =>
    exact .withSource fun g => .withSource fun e => .withSource fun m =>
      .check (by decide) <| .check (by decide) <| .finish (by simp) 0
  | trialdiv a => exact .withSource fun n => .check (by decide) <| .finish (by simp) 0
  | mrround a b => exact .withSource fun n => .withSource fun base => .check (by decide) <| .finish (by simp) 0
  | mrtest a random => exact execMrtest_errsByRaising a random s
  | randcand d blum => exact .check (by decide) <| .finish (by simp) _
  | wfchk => exact .finish (by simp) 0

theorem engineTurn_errsByRaising (s : State) : ErrsByRaising s (engineTurn s) := by
  obtain ⟨-, he⟩ | ⟨w, e, -, -, he⟩ | ⟨w, i, -, -, he⟩ := engineTurn_cases s <;> rw [he]
  · exact .next rfl
  · exact .fail (by cases e <;> decide)
  · exact exec_errsByRaising i s

end

/-- Settles O10: with ERR = 0 before, ERR = 1 can only come of a raised error. -/
theorem errorsWriteNothingElse : Obligations.ErrorsWriteNothingElse := by
  intro s t hclear hnext herr
  obtain hkept | herror := engineTurn_errsByRaising s t hnext
  · simp [hkept, hclear] at herr
  · exact herror.frame

end Sys2Proof.Machine
end

section
/-! Resets and busy-guarded writes (O16, O23, O24, O25). Both resets are `State.resetCsrs` of a state that has lost
operand RAM and SIGN bits: all of them, or those an abandoned command names. The CSRs follow from `resetCsrs` alone, the
rest from what was lost before it. -/

namespace Sys2Proof.Machine

section
variable {s : State} {w : Word} {i : Instr} {d r : RegField}

/-! ### The CSRs (70_reset_and_hazards.md R230) -/

/-- Every CSR but SIGN is at its reset value, nothing is pending and irq is low. -/
structure CsrsAtReset (t : State) : Prop where
  ctrl : t.ctrl.word = 0
  status : t.status.word = 0
  cmd : t.cmd = 0
  errcode : t.errcode = .noError
  wf : t.wf = 0
  cert : t.cert = 0
  nbits : t.nbits = 0
  mconst : t.mconst = 0
  wfsug : t.wfsug = 0
  mrrounds : t.mrrounds = 0
  lastred : t.lastred = .noReduction
  winsz : t.winsz = 0
  rngcnt : t.rngcnt = 0
  pending : t.pending = none
  irq : t.irq = false

theorem State.resetCsrs_csrsAtReset (u : State) : CsrsAtReset u.resetCsrs := by
  constructor
  case ctrl | status => simp [Ctrl.word, Status.word, bitWord]
  all_goals rfl

/-! ### Unwritten operand RAM (70_reset_and_hazards.md R231) -/

theorem Memory.load_nil {n : Nat} (lo : Nat) (h : 0 < n) : Memory.load [] lo n = none := by
  obtain ⟨k, rfl⟩ : ∃ k, n = k + 1 := ⟨n - 1, by omega⟩
  simp [Memory.load, Memory.window, List.range'_succ]

theorem Memory.readByte_nil (a : Nat) : Memory.readByte [] a = none := by
  simp [Memory.readByte, Memory.load_nil a Nat.one_pos]

theorem State.regWords_of_mem_nil (hmem : s.mem = []) (hnw : 0 < s.nw) (r : RegField) : s.regWords r = none := by
  simp [State.regWords, Memory.loadWords, hmem, Memory.load_nil _ (show 0 < 4 * s.nw by omega)]

/-- A command that reads a big register faults when no register is written (10_state.md R47). -/
theorem exec_of_regWords_none (h : ∀ r, s.regWords r = none) (hsources : i.sources ≠ []) :
    exec i s = .fault .uninitOperand := by
  obtain ⟨-, hfault⟩ | ⟨hready, -⟩ := exec_cases i s
  · exact hfault
  · obtain ⟨r, hr⟩ := List.exists_mem_of_ne_nil _ hsources
    have hwritten := List.all_eq_true.1 hready r hr
    simp [h r] at hwritten

/-- A hardware reset clears the CSRs of a state with SIGN 0 and nothing written. -/
theorem State.hardReset_eq_resetCsrs (s : State) :
    ∃ u : State, s.hardReset = u.resetCsrs ∧ u.nw = s.nw ∧ u.mem = [] ∧ u.sign = 0 := by
  unfold State.hardReset
  split <;> exact ⟨_, rfl, rfl, rfl, rfl⟩

/-! ### What an abandoned command leaves (70_reset_and_hazards.md R233) -/

theorem putSign_getLsbD_same (sign : BitVec 8) (b : Bool) (hd : d.toNat < 8) :
    (putSign sign d b).getLsbD d.toNat = b := by
  cases b with
  | true => simp [putSign, hd]
  | false => exact (clearSign_getLsbD sign d d.toNat).trans (by simp)

theorem State.signBit_spoilReg_same (b : Bool) (hd : d.toNat < 8) : (s.spoilReg d b).signBit d = b :=
  putSign_getLsbD_same s.sign b hd

theorem State.signBit_spoilReg_other (b : Bool) (h : r ≠ d) : (s.spoilReg d b).signBit r = s.signBit r :=
  putSign_getLsbD_other s.sign d b r.toNat fun he => h (BitVec.eq_of_toNat_eq he)

theorem State.readByte_spoilReg_outside {a : Nat} (b : Bool) (hd : i.destination = some d)
    (ha : inDestination s.nw i a = false) : (s.spoilReg d b).mem.readByte a = s.mem.readByte a := by
  refine Memory.readByte_forget_disjoint ?_
  simp only [inDestination, hd, Bool.and_eq_false_iff, decide_eq_false_iff_not] at ha
  omega

@[simp] theorem State.streamWord_loseWords (k : Nat) :
    s.loseWords.streamWord k = s.streamWord (Config.freeCount s.draws + k) :=
  State.streamWord_takeWords _ k

theorem wordDestination_of_decode (h : decode w = .ok i) : wordDestination w = i.destination := by
  simp [wordDestination, h]

/-! ### Soft reset (70_reset_and_hazards.md R232) -/

theorem State.softReset_idle (hp : s.pending = none) : s.softReset = s.resetCsrs := by
  simp [State.softReset, hp]

theorem State.softReset_no_destination (hp : s.pending = some w) (hw : wordDestination w = none) :
    s.softReset = s.loseWords.resetCsrs := by
  simp [State.softReset, hp, State.abandon, hw]

theorem State.softReset_destination (hp : s.pending = some w) (hw : wordDestination w = some d) :
    s.softReset = (s.spoilReg d (Config.freeSign s.draws)).loseWords.resetCsrs := by
  simp [State.softReset, hp, State.abandon, hw]

/-- Whatever is pending, a soft reset clears the CSRs of a state that has at most moved on along the entropy
stream. -/
theorem State.softReset_eq_resetCsrs (s : State) :
    ∃ u : State, s.softReset = u.resetCsrs ∧ u.nw = s.nw ∧ ∃ n, ∀ k, u.streamWord k = s.streamWord (n + k) := by
  cases hp : s.pending with
  | none => exact ⟨s, State.softReset_idle hp, rfl, 0, fun k => by rw [Nat.zero_add]⟩
  | some w =>
    cases hw : wordDestination w with
    | none => exact ⟨_, State.softReset_no_destination hp hw, rfl, _, fun k => State.streamWord_loseWords k⟩
    | some d => exact ⟨_, State.softReset_destination hp hw, rfl, _, fun k => State.streamWord_loseWords k⟩

/-! ### Host writes to CTRL (10_state.md R24) -/

theorem State.access_write_ctrl (s : State) (v : Word) :
    s.access (.write 0x004#17 0b1111#4 v) = { s.writeCtrl v with resp := .okay } :=
  State.access_write_word rfl v

theorem State.writeCtrl_of_clear {v : Word} (h : v.getLsbD 0 = false) :
    s.writeCtrl v = { s with ctrl := ⟨v.getLsbD 1, v.getLsbD 2⟩ } := by
  rw [State.writeCtrl, h, if_neg Bool.false_ne_true]

theorem State.writeCtrl_of_set {v : Word} (h : v.getLsbD 0 = true) : s.writeCtrl v = s.softReset := by
  rw [State.writeCtrl, h, if_pos rfl]

end

/-! ### The obligations -/

/-- Settles O16: all the offsets listed are busy-guarded (`State.writeAt_busy`). -/
theorem guardedWritesWhileBusyAreDropped : Obligations.GuardedWritesWhileBusyAreDropped := by
  intro s off v hbusy halign hguard
  have hoff : isGuarded s.nw off.toNat := hguard.imp (List.mem_map_of_mem (f := BitVec.toNat)) id
  rw [State.access_write_word halign, State.writeAt_busy hbusy hoff]
  rfl

/-- Settles O23: `State.reset` is what clearing its own CSRs leaves, and its operand RAM is empty. -/
theorem resetValues : Obligations.ResetValues := by
  have h : CsrsAtReset State.reset := State.reset.resetCsrs_csrsAtReset
  exact ⟨h.ctrl, h.status, h.cmd, h.errcode, rfl, h.wf, h.cert, h.nbits, h.mconst, h.wfsug, h.mrrounds, h.lastred,
    h.winsz, h.rngcnt, h.pending, rfl, h.irq, rfl, State.regWords_of_mem_nil rfl (by decide), Memory.readByte_nil⟩

/-- Settles O24: the CSRs are cleared in a state with nothing written, in which every source faults. -/
theorem hardResetClearsRegistersAndRam : Obligations.HardResetClearsRegistersAndRam := by
  intro s t
  obtain ⟨u, hreset, hnw, hmem, hsign⟩ := s.hardReset_eq_resetCsrs
  have ht : t = u.resetCsrs := hreset
  have h : CsrsAtReset t := ht ▸ u.resetCsrs_csrsAtReset
  have htnw : t.nw = s.nw := by rw [ht, State.resetCsrs_nw, hnw]
  have htmem : t.mem = [] := by rw [ht, State.resetCsrs_mem, hmem]
  have htsign : t.sign = 0 := by rw [ht, State.resetCsrs_sign, hsign]
  refine ⟨h.ctrl, h.status, h.cmd, h.errcode, htsign, h.wf, h.cert, h.nbits, h.mconst, h.wfsug, h.mrrounds, h.lastred,
    h.winsz, h.rngcnt, h.pending, h.irq, rfl, ?_, ?_, fun hpos => ?_⟩
  · exact congrArg cfgWord htnw
  · rw [htmem]; exact Memory.readByte_nil
  · have hwords := State.regWords_of_mem_nil htmem (by rwa [htnw])
    exact ⟨hwords, fun i hsources => exec_of_regWords_none hwords hsources⟩

/-- Settles O25: the CSRs by `State.softReset_eq_resetCsrs`, operand RAM and SIGN by what is pending. -/
theorem softResetKeepsRamAndSign : Obligations.SoftResetKeepsRamAndSign := by
  intro s v hnw t
  have ht : t = { s.writeCtrl v with resp := .okay } := s.access_write_ctrl v
  clear_value t
  subst ht
  refine ⟨fun hclear => by rw [State.writeCtrl_of_clear hclear], fun hset => ?_⟩
  rw [State.writeCtrl_of_set hset]
  obtain ⟨u, hreset, hunw, n, hstream⟩ := s.softReset_eq_resetCsrs
  have h : CsrsAtReset { s.softReset with resp := .okay } :=
    hreset ▸ State.resetCsrs_csrsAtReset { u with resp := .okay }
  refine ⟨h.ctrl, h.status, h.cmd, h.errcode, h.wf, h.cert, h.nbits, h.mconst, h.wfsug, h.mrrounds, h.lastred, h.winsz,
    h.rngcnt, h.pending, h.irq, ?_, ⟨n, ?_⟩, fun hp => ?_, fun w i hp hdec hdest => ?_, fun w i d hp hdec hdest => ?_⟩
  · rw [hreset]; exact hunw
  · rw [hreset]; exact hstream
  · rw [State.softReset_idle hp]; exact ⟨rfl, rfl, fun _ => rfl⟩
  · rw [State.softReset_no_destination hp ((wordDestination_of_decode hdec).trans hdest)]; exact ⟨rfl, rfl⟩
  · rw [State.softReset_destination hp ((wordDestination_of_decode hdec).trans hdest)]
    generalize Config.freeSign s.draws = b
    exact ⟨State.regWords_spoilReg_same b hnw, State.signBit_spoilReg_same b (destination_lt_of_decode hdec hdest),
      fun r hr => ⟨State.regWords_spoilReg_other b hr, State.signBit_spoilReg_other b hr⟩,
      fun a ha => State.readByte_spoilReg_outside b hdest ha⟩

end Sys2Proof.Machine
end
